-- ==== Sys2Proof/Word.lean ====
section
/-! DEFINITION. The word types of the block (00_scope.md R12): bytes, 32-bit registers, 64-bit command words. -/

namespace Sys2Proof

/-- A byte, which is also a field element (40_field_arithmetic.md R120): bit `i` is the coefficient of `x^i` (20_memory.md R67). -/
abbrev Byte := BitVec 8

/-- A register value, a key, an address or an offset (10_state.md R22, 30_encoding.md R90). -/
abbrev Word := BitVec 32

/-- A command word `CMD[63:0]` (30_encoding.md R90). -/
abbrev Cmd := BitVec 64

/-- Field addition and subtraction are bitwise exclusive or (40_field_arithmetic.md R121). -/
abbrev gfAdd (a b : Byte) : Byte := a ^^^ b

end Sys2Proof
end

