-- ==== Sys2Proof/Config.lean ====
section
/-! DEFINITION. What one instance of the block fixes (00_scope.md R9, R10), and the one free value of the model. -/

namespace Sys2Proof

/-- The byte-addressed spaces of 20_memory.md R60: payload, the fragment memory of one slot, one matrix bank. -/
inductive Space where
  | pay
  | frag (slot : BitVec 8)
  | mat (bank : BitVec 2)
deriving DecidableEq, Repr

/-- The two open parameters of an instance (00_scope.md R10, D8): bytes of payload memory, bytes of each fragment slot. -/
structure Config where
  payMax : Word
  shardMax : Word
deriving DecidableEq, Repr

/-- Both parameters at the spec's default, `2^32 - 1` (00_scope.md R10). -/
def Config.default : Config := { payMax := 0xFFFFFFFF, shardMax := 0xFFFFFFFF }

/-- `1 ≤ PAY_MAX` and `1 ≤ SHARD_MAX` (00_scope.md R10); the upper bound is the width. -/
abbrev Config.legal (c : Config) : Prop := 1 ≤ c.payMax.toNat ∧ 1 ≤ c.shardMax.toNat

/-- `FIELD_POLY` (00_scope.md R9), as a value wide enough for the unreduced product. -/
def Config.fieldPoly : BitVec 16 := 0x11D

/-- `GEN` (00_scope.md R10, D10). No command result depends on it (40_field_arithmetic.md R126). -/
def Config.gen : Byte := 0x02

/-- `N_MAX` (00_scope.md R9): the largest legal `k + r`. -/
def Config.nMax : Nat := 256

/-- `BANK_BYTES` (00_scope.md R10). -/
def Config.bankBytes : Nat := 65536

/-- `SCR_MUL` (00_scope.md R9). -/
def Config.scrMul : Word := 1664525

/-- `SCR_ADD` (00_scope.md R9). -/
def Config.scrAdd : Word := 1013904223

/-- FREE VALUE (log 4): what a byte that no command has written since reset gives to the command that reads it, for
the value of the event counter during that command, the space and the address (10_state.md R44, 47_host_access.md R272,
93_implementation_defined.md U3). Nothing constrains it. -/
opaque Config.unwrittenByte : Nat → Space → Nat → Byte

end Sys2Proof
end

