-- ==== Sys2Proof/Syntax.lean ====
section
/-! DEFINITION. The 20 commands (30_encoding.md R96), one constructor per row of the opcode table, operands in the
order of the assembler (R99). -/

namespace Sys2Proof

/-- A command with its operands assembled (30_encoding.md R92): matrix dimensions are true values, `1 .. 256` in a
well-formed command; every other operand has exactly the width of its field. -/
inductive Instr where
  /-- `GFMUL a, b` -/
  | gfmul (a b : Byte)
  /-- `GFDIV a, b`: `a / b` -/
  | gfdiv (a b : Byte)
  /-- `GENMAT Md, n, k` -/
  | genmat (d : BitVec 2) (n k : Nat)
  /-- `MATMUL Md, Ma, Mb, m, p, q` -/
  | matmul (d a b : BitVec 2) (m p q : Nat)
  /-- `MATINV Md, Ms, m` -/
  | matinv (d src : BitVec 2) (m : Nat)
  /-- `SCRSEED key` -/
  | scrseed (key : Word)
  /-- `SCRBYTE byte` -/
  | scrbyte (x : Byte)
  /-- `ENCODE` -/
  | encode
  /-- `DECODE` -/
  | decode
  /-- `WRREG reg, value` -/
  | wrreg (reg : BitVec 8) (value : Word)
  /-- `RDREG reg` -/
  | rdreg (reg : BitVec 8)
  /-- `WRPAY addr, byte` -/
  | wrpay (addr : Word) (x : Byte)
  /-- `RDPAY addr` -/
  | rdpay (addr : Word)
  /-- `WRFRAG slot, off, byte` -/
  | wrfrag (slot : BitVec 8) (off : Word) (x : Byte)
  /-- `RDFRAG slot, off` -/
  | rdfrag (slot : BitVec 8) (off : Word)
  /-- `WRSLOT slot, id, valid, alive` -/
  | wrslot (slot : BitVec 8) (id : Byte) (valid alive : Bool)
  /-- `RDSLOT slot` -/
  | rdslot (slot : BitVec 8)
  /-- `ALIVE slot, v` -/
  | alive (slot : BitVec 8) (v : Bool)
  /-- `WRMAT Mb, off, byte` -/
  | wrmat (bank : BitVec 2) (off : BitVec 16) (x : Byte)
  /-- `RDMAT Mb, off` -/
  | rdmat (bank : BitVec 2) (off : BitVec 16)
deriving DecidableEq, Repr

end Sys2Proof
end

