-- ==== Sys2Proof/WellFormed.lean ====
section
/-! DEFINITION. Which commands have an encoding: every matrix dimension and fragment count lies in `1 .. 256`
(30_encoding.md R92). The widths of the other operands are in their types. -/

namespace Sys2Proof

/-- A dimension or count that the value-minus-one byte of 30_encoding.md R92 can hold. -/
abbrev dimOk (n : Nat) : Prop := 1 ≤ n ∧ n ≤ 256

/-- The command can be written as a 64-bit word (30_encoding.md R92). `k ≤ n` of `GENMAT` is no part of it: that test is
made at execution (41_generator_matrix.md R146). -/
def Instr.wellFormed (i : Instr) : Bool :=
  match i with
  | .gfmul _ _ => true
  | .gfdiv _ _ => true
  | .genmat _ n k => decide (dimOk n) && decide (dimOk k)
  | .matmul _ _ _ m p q => decide (dimOk m) && decide (dimOk p) && decide (dimOk q)
  | .matinv _ _ m => decide (dimOk m)
  | .scrseed _ => true
  | .scrbyte _ => true
  | .encode => true
  | .decode => true
  | .wrreg _ _ => true
  | .rdreg _ => true
  | .wrpay _ _ => true
  | .rdpay _ => true
  | .wrfrag _ _ _ => true
  | .rdfrag _ _ => true
  | .wrslot _ _ _ _ => true
  | .rdslot _ => true
  | .alive _ _ => true
  | .wrmat _ _ _ => true
  | .rdmat _ _ => true

end Sys2Proof
end

