-- ==== Sys2Proof/Decode.lean ====
section
/-! DEFINITION. The command word (30_encoding.md): its fields, the opcode map, the decoder, and after it the encoder. -/

namespace Sys2Proof

/-- The five fields of format `CMD64` (30_encoding.md R90). -/
structure Fields where
  op : Byte
  f1 : Byte
  f2 : Byte
  f3 : Byte
  imm : Word
deriving DecidableEq, Repr

/-- `op[63:56] f1[55:48] f2[47:40] f3[39:32] imm[31:0]` (30_encoding.md R90). -/
def Fields.ofWord (w : Cmd) : Fields where
  op := w.extractLsb' 56 8
  f1 := w.extractLsb' 48 8
  f2 := w.extractLsb' 40 8
  f3 := w.extractLsb' 32 8
  imm := w.extractLsb' 0 32

/-- The word whose fields are these (30_encoding.md R90). -/
def Fields.toWord (f : Fields) : Cmd := f.op ++ f.f1 ++ f.f2 ++ f.f3 ++ f.imm

/-- Why a word is no command (30_encoding.md R94): its opcode is reserved (step 1), or a must-be-zero bit is 1 (step 2). -/
inductive Illegal where
  | reservedOpcode
  | mustBeZero
deriving DecidableEq, Repr

/-- The 20 opcodes by name (30_encoding.md R96). -/
inductive Op where
  | gfmul | gfdiv | genmat | matmul | matinv | scrseed | scrbyte | encode | decode | wrreg | rdreg
  | wrpay | rdpay | wrfrag | rdfrag | wrslot | rdslot | alive | wrmat | rdmat
deriving DecidableEq, Repr

/-- Column `op` of the opcode map (30_encoding.md R96). -/
def Op.number : Op → Byte
  | .gfmul => 0x01
  | .gfdiv => 0x02
  | .genmat => 0x10
  | .matmul => 0x11
  | .matinv => 0x12
  | .scrseed => 0x20
  | .scrbyte => 0x21
  | .encode => 0x30
  | .decode => 0x31
  | .wrreg => 0x40
  | .rdreg => 0x41
  | .wrpay => 0x42
  | .rdpay => 0x43
  | .wrfrag => 0x44
  | .rdfrag => 0x45
  | .wrslot => 0x46
  | .rdslot => 0x47
  | .alive => 0x48
  | .wrmat => 0x49
  | .rdmat => 0x4A

/-- Every opcode, in the order of the opcode map. -/
def Op.all : List Op :=
  [.gfmul, .gfdiv, .genmat, .matmul, .matinv, .scrseed, .scrbyte, .encode, .decode, .wrreg, .rdreg,
    .wrpay, .rdpay, .wrfrag, .rdfrag, .wrslot, .rdslot, .alive, .wrmat, .rdmat]

/-- The opcode a byte stands for, if any: 236 values are reserved (30_encoding.md R95). -/
def Op.ofNumber (b : Byte) : Option Op := Op.all.find? (fun o => o.number == b)

/-- Column `mask` of the opcode map (30_encoding.md R96): `op` and every must-be-zero bit. -/
def Op.mask : Op → Cmd
  | .gfmul => 0xFF0000FFFFFFFFFF
  | .gfdiv => 0xFF0000FFFFFFFFFF
  | .genmat => 0xFFFCFFFFFFFF0000
  | .matmul => 0xFFFCFCFCFF000000
  | .matinv => 0xFFFCFCFFFFFFFF00
  | .scrseed => 0xFFFFFFFF00000000
  | .scrbyte => 0xFF00FFFFFFFFFFFF
  | .encode => 0xFFFFFFFFFFFFFFFF
  | .decode => 0xFFFFFFFFFFFFFFFF
  | .wrreg => 0xFF00FFFF00000000
  | .rdreg => 0xFF00FFFFFFFFFFFF
  | .wrpay => 0xFF00FFFF00000000
  | .rdpay => 0xFFFFFFFF00000000
  | .wrfrag => 0xFF0000FF00000000
  | .rdfrag => 0xFF00FFFF00000000
  | .wrslot => 0xFF0000FCFFFFFFFF
  | .rdslot => 0xFF00FFFFFFFFFFFF
  | .alive => 0xFF00FEFFFFFFFFFF
  | .wrmat => 0xFFFC00FFFFFF0000
  | .rdmat => 0xFFFCFFFFFFFF0000

/-- Column `match` of the opcode map (30_encoding.md R96). -/
def Op.pattern : Op → Cmd
  | .gfmul => 0x0100000000000000
  | .gfdiv => 0x0200000000000000
  | .genmat => 0x1000000000000000
  | .matmul => 0x1100000000000000
  | .matinv => 0x1200000000000000
  | .scrseed => 0x2000000000000000
  | .scrbyte => 0x2100000000000000
  | .encode => 0x3000000000000000
  | .decode => 0x3100000000000000
  | .wrreg => 0x4000000000000000
  | .rdreg => 0x4100000000000000
  | .wrpay => 0x4200000000000000
  | .rdpay => 0x4300000000000000
  | .wrfrag => 0x4400000000000000
  | .rdfrag => 0x4500000000000000
  | .wrslot => 0x4600000000000000
  | .rdslot => 0x4700000000000000
  | .alive => 0x4800000000000000
  | .wrmat => 0x4900000000000000
  | .rdmat => 0x4A00000000000000

/-- The opcode of a command (30_encoding.md R96). -/
def Instr.op (i : Instr) : Op :=
  match i with
  | .gfmul _ _ => .gfmul
  | .gfdiv _ _ => .gfdiv
  | .genmat _ _ _ => .genmat
  | .matmul _ _ _ _ _ _ => .matmul
  | .matinv _ _ _ => .matinv
  | .scrseed _ => .scrseed
  | .scrbyte _ => .scrbyte
  | .encode => .encode
  | .decode => .decode
  | .wrreg _ _ => .wrreg
  | .rdreg _ => .rdreg
  | .wrpay _ _ => .wrpay
  | .rdpay _ => .rdpay
  | .wrfrag _ _ _ => .wrfrag
  | .rdfrag _ _ => .rdfrag
  | .wrslot _ _ _ _ => .wrslot
  | .rdslot _ => .rdslot
  | .alive _ _ => .alive
  | .wrmat _ _ _ => .wrmat
  | .rdmat _ _ => .rdmat

/-- A dimension from its value-minus-one byte, the one at bit `lo` of `imm` (30_encoding.md R92). -/
def dimOf (imm : Word) (lo : Nat) : Nat := (imm.extractLsb' lo 8).toNat + 1

/-- A bank number, `f[1:0]` (30_encoding.md R96). -/
def bankOf (f : Byte) : BitVec 2 := f.extractLsb' 0 2

/-- `f[7:2] = 0` (30_encoding.md R96). -/
def isBank (f : Byte) : Bool := f.extractLsb' 2 6 == 0

/-- Step 2 of decoding (30_encoding.md R94): the bits that the command's row marks as must-be-zero are 0. -/
def zerosOk (o : Op) (f : Fields) : Bool :=
  match o with
  | .gfmul => f.f3 == 0 && f.imm == 0
  | .gfdiv => f.f3 == 0 && f.imm == 0
  | .genmat => isBank f.f1 && f.f2 == 0 && f.f3 == 0 && f.imm.extractLsb' 16 16 == 0
  | .matmul => isBank f.f1 && isBank f.f2 && isBank f.f3 && f.imm.extractLsb' 24 8 == 0
  | .matinv => isBank f.f1 && isBank f.f2 && f.f3 == 0 && f.imm.extractLsb' 8 24 == 0
  | .scrseed => f.f1 == 0 && f.f2 == 0 && f.f3 == 0
  | .scrbyte => f.f2 == 0 && f.f3 == 0 && f.imm == 0
  | .encode => f.f1 == 0 && f.f2 == 0 && f.f3 == 0 && f.imm == 0
  | .decode => f.f1 == 0 && f.f2 == 0 && f.f3 == 0 && f.imm == 0
  | .wrreg => f.f2 == 0 && f.f3 == 0
  | .rdreg => f.f2 == 0 && f.f3 == 0 && f.imm == 0
  | .wrpay => f.f2 == 0 && f.f3 == 0
  | .rdpay => f.f1 == 0 && f.f2 == 0 && f.f3 == 0
  | .wrfrag => f.f3 == 0
  | .rdfrag => f.f2 == 0 && f.f3 == 0
  | .wrslot => f.f3.extractLsb' 2 6 == 0 && f.imm == 0
  | .rdslot => f.f2 == 0 && f.f3 == 0 && f.imm == 0
  | .alive => f.f2.extractLsb' 1 7 == 0 && f.f3 == 0 && f.imm == 0
  | .wrmat => isBank f.f1 && f.f3 == 0 && f.imm.extractLsb' 16 16 == 0
  | .rdmat => isBank f.f1 && f.f2 == 0 && f.f3 == 0 && f.imm.extractLsb' 16 16 == 0

/-- Step 3 of decoding: the command with its operands assembled (30_encoding.md R92, R96). -/
def assemble (o : Op) (f : Fields) : Instr :=
  match o with
  | .gfmul => .gfmul f.f1 f.f2
  | .gfdiv => .gfdiv f.f1 f.f2
  | .genmat => .genmat (bankOf f.f1) (dimOf f.imm 8) (dimOf f.imm 0)
  | .matmul => .matmul (bankOf f.f1) (bankOf f.f2) (bankOf f.f3) (dimOf f.imm 16) (dimOf f.imm 8) (dimOf f.imm 0)
  | .matinv => .matinv (bankOf f.f1) (bankOf f.f2) (dimOf f.imm 0)
  | .scrseed => .scrseed f.imm
  | .scrbyte => .scrbyte f.f1
  | .encode => .encode
  | .decode => .decode
  | .wrreg => .wrreg f.f1 f.imm
  | .rdreg => .rdreg f.f1
  | .wrpay => .wrpay f.imm f.f1
  | .rdpay => .rdpay f.imm
  | .wrfrag => .wrfrag f.f1 f.imm f.f2
  | .rdfrag => .rdfrag f.f1 f.imm
  | .wrslot => .wrslot f.f1 f.f2 (f.f3.getLsbD 1) (f.f3.getLsbD 0)
  | .rdslot => .rdslot f.f1
  | .alive => .alive f.f1 (f.f2.getLsbD 0)
  | .wrmat => .wrmat (bankOf f.f1) (f.imm.extractLsb' 0 16) f.f2
  | .rdmat => .rdmat (bankOf f.f1) (f.imm.extractLsb' 0 16)

/-- The three steps of 30_encoding.md R94 on the fields of a word. -/
def decodeFields (f : Fields) : Except Illegal Instr :=
  match Op.ofNumber f.op with
  | none => .error .reservedOpcode
  | some o => if zerosOk o f then .ok (assemble o f) else .error .mustBeZero

/-- Decoding is total (30_encoding.md R94): every word is one command or illegal, by name. -/
def decode (w : Cmd) : Except Illegal Instr := decodeFields (Fields.ofWord w)

/-- The decoder on a table row's word: 64 bits, the bits above `nbits` zero. -/
def decodeTableWord (nbits w : Nat) : Option Instr :=
  match decode (BitVec.ofNat 64 (w % 2 ^ nbits)) with
  | .ok i => some i
  | .error _ => none

/-- Value minus one in 8 bits (30_encoding.md R92). -/
def dimField (n : Nat) : Byte := BitVec.ofNat 8 (n - 1)

/-- A bank number in a byte field, upper six bits 0 (30_encoding.md R96). -/
def bankField (b : BitVec 2) : Byte := 0#6 ++ b

/-- The fields of a command, column "fields" of the assembler table (30_encoding.md R99). -/
def encodeFields (i : Instr) : Fields :=
  match i with
  | .gfmul a b => ⟨0x01, a, b, 0, 0⟩
  | .gfdiv a b => ⟨0x02, a, b, 0, 0⟩
  | .genmat d n k => ⟨0x10, bankField d, 0, 0, 0#16 ++ dimField n ++ dimField k⟩
  | .matmul d a b m p q =>
    ⟨0x11, bankField d, bankField a, bankField b, 0#8 ++ dimField m ++ dimField p ++ dimField q⟩
  | .matinv d src m => ⟨0x12, bankField d, bankField src, 0, 0#24 ++ dimField m⟩
  | .scrseed key => ⟨0x20, 0, 0, 0, key⟩
  | .scrbyte x => ⟨0x21, x, 0, 0, 0⟩
  | .encode => ⟨0x30, 0, 0, 0, 0⟩
  | .decode => ⟨0x31, 0, 0, 0, 0⟩
  | .wrreg reg value => ⟨0x40, reg, 0, 0, value⟩
  | .rdreg reg => ⟨0x41, reg, 0, 0, 0⟩
  | .wrpay addr x => ⟨0x42, x, 0, 0, addr⟩
  | .rdpay addr => ⟨0x43, 0, 0, 0, addr⟩
  | .wrfrag slot off x => ⟨0x44, slot, x, 0, off⟩
  | .rdfrag slot off => ⟨0x45, slot, 0, 0, off⟩
  | .wrslot slot id valid alive =>
    ⟨0x46, slot, id, 0#6 ++ BitVec.ofBool valid ++ BitVec.ofBool alive, 0⟩
  | .rdslot slot => ⟨0x47, slot, 0, 0, 0⟩
  | .alive slot v => ⟨0x48, slot, 0#7 ++ BitVec.ofBool v, 0, 0⟩
  | .wrmat bank off x => ⟨0x49, bankField bank, x, 0, 0#16 ++ off⟩
  | .rdmat bank off => ⟨0x4A, bankField bank, 0, 0, 0#16 ++ off⟩

/-- The word of a well-formed command (30_encoding.md R90, R96, R99). -/
def encode (i : Instr) : Cmd := (encodeFields i).toWord

end Sys2Proof
end

