-- ==== Sys2Proof/Machine/Field.lean ====
section
/-! DEFINITION. Field arithmetic (40_field_arithmetic.md): the tables, `gf_mul`, `gf_div`, and the definition without
tables of R126. -/

namespace Sys2Proof.Machine

/-- The carry-less product of two bytes, 15 bits (40_field_arithmetic.md R126, first loop), bits `0 .. n - 1` of `b`. -/
def clmul (a b : Byte) : Nat → BitVec 16
  | 0 => 0
  | n + 1 => clmul a b n ^^^ (if b.getLsbD n then a.setWidth 16 <<< n else 0)

/-- Reduction by `FIELD_POLY` (40_field_arithmetic.md R126, second loop): bits `7 + n` down to 8 are cleared in turn. -/
def reduce : Nat → BitVec 16 → BitVec 16
  | 0, p => p
  | n + 1, p => reduce n (if p.getLsbD (n + 8) then p ^^^ (Config.fieldPoly <<< n) else p)

/-- `gf_mul` without tables (40_field_arithmetic.md R126). -/
def polyMul (a b : Byte) : Byte := (reduce 7 (clmul a b 8)).setWidth 8

/-- The hidden state (10_state.md R40): `EXP[0 .. 511]`, and `LOG[1 .. 255]` with `LOG[a]` at index `a - 1`
(`LOG[0]` does not exist). -/
structure Tables where
  exp : Vector Byte 512
  log : Vector Byte 255
deriving DecidableEq, Repr

/-- `EXP[i]` (40_field_arithmetic.md R124). Every index the rules form is below 512 (R125). -/
def Tables.expAt (t : Tables) (i : Nat) : Byte := t.exp.getD i 0

/-- `LOG[a]` for `a ≠ 0` (40_field_arithmetic.md R124). -/
def Tables.logAt (t : Tables) (a : Byte) : Nat := (t.log.getD (a.toNat - 1) 0).toNat

/-- `v, v·g, v·g², …`, `n` entries: what the first loop of 40_field_arithmetic.md R124 puts in `EXP`. -/
def powers (g : Byte) : Nat → Byte → List Byte
  | 0, _ => []
  | n + 1, v => v :: powers g n (polyMul v g)

theorem powers_length (g : Byte) (n : Nat) (v : Byte) : (powers g n v).length = n := by
  induction n generalizing v with
  | zero => rfl
  | succ n ih => simp [powers, ih]

/-- `EXP` (40_field_arithmetic.md R124): 255 powers of `g` from 1 on, then `EXP[i] = EXP[i - 255]` up to index 511 (R125). -/
def expTable (g : Byte) : List Byte := powers g 255 0x01 ++ powers g 255 0x01 ++ (powers g 255 0x01).take 2

/-- `LOG` (40_field_arithmetic.md R124): `LOG[v] = i` where `EXP[i] = v`, for `v = 1 .. 255`. -/
def logTable (g : Byte) : List Byte :=
  (List.range 255).map fun j => BitVec.ofNat 8 ((powers g 255 0x01).findIdx (· == BitVec.ofNat 8 (j + 1)))

/-- The tables of the multiplicative generator `g` (40_field_arithmetic.md R124). -/
def Tables.build (g : Byte) : Tables where
  exp := ⟨⟨expTable g⟩, by simp [expTable, powers_length]⟩
  log := ⟨⟨logTable g⟩, by simp [logTable]⟩

/-- `gf_mul(a, b)` (40_field_arithmetic.md R122). -/
def gfMul (t : Tables) (a b : Byte) : Byte :=
  if a = 0 ∨ b = 0 then 0 else t.expAt ((t.logAt a + t.logAt b) % 255)

/-- `gf_div(a, b)` (40_field_arithmetic.md R123, R130). -/
def gfDiv (t : Tables) (a b : Byte) : Byte :=
  if b = 0 then 0
  else if a = 0 then 0
  else t.expAt ((255 + t.logAt a - t.logAt b) % 255)

end Sys2Proof.Machine
end

