-- ==== Sys2Proof/Machine/Memory.lean ====
section
/-! DEFINITION. One byte memory as plain data: the bytes written since reset, by address. -/

namespace Sys2Proof.Machine

/-- The bytes written since reset, addresses strictly rising. An address that is not listed has not been written since
reset and holds no byte of its own (10_state.md R44, 93_implementation_defined.md U3; log 4). -/
abbrev Memory := List Host.Cell

/-- The byte last written at `a` since reset, if any. -/
def Memory.read : Memory → Nat → Option Byte
  | [], _ => none
  | (b, v) :: m, a => if a = b then some v else Memory.read m a

/-- Write one byte (20_memory.md R62), keeping the addresses strictly rising. -/
def Memory.write : Memory → Nat → Byte → Memory
  | [], a, v => [(a, v)]
  | (b, u) :: m, a, v =>
    if a < b then (a, v) :: (b, u) :: m
    else if a = b then (a, v) :: m
    else (b, u) :: Memory.write m a v

/-- Write bytes at consecutive addresses from `a` on. -/
def Memory.writeMany (m : Memory) (a : Nat) : List Byte → Memory
  | [] => m
  | v :: vs => Memory.writeMany (m.write a v) (a + 1) vs

/-- The canonical form: addresses strictly rising. -/
abbrev Memory.wf (m : Memory) : Prop := List.Pairwise (fun c d => c.1 < d.1) m

/-- Every listed address exists in a memory of `size` bytes (20_memory.md R60, R69). -/
abbrev Memory.within (m : Memory) (size : Nat) : Prop := ∀ c ∈ m, c.1 < size

end Sys2Proof.Machine
end

