-- ==== Sys2Proof/Machine/State.lean ====
section
/-! DEFINITION. The architectural state (10_state.md), as plain data, and its value after reset. -/

namespace Sys2Proof.Machine

/-- The error kinds (60_exceptions.md R290). `invalidContainer` belongs to the host's container codec alone (R202). -/
inductive ErrorKind where
  | invalidParameters
  | insufficientFragments
  | singularMatrix
  | invalidContainer
  | illegalCommand
  | capacityExceeded
deriving DecidableEq, Repr

/-- The code of a response (60_exceptions.md R290). -/
inductive Code where
  | ok
  | error (e : ErrorKind)
deriving DecidableEq, Repr

/-- The answer to one command (30_encoding.md R93). -/
structure Response where
  code : Code
  data : Word
deriving DecidableEq, Repr

/-- A slot header (10_state.md R33). -/
structure Slot where
  valid : Bool
  alive : Bool
  id : Byte
deriving DecidableEq, Repr

/-- The six parameter registers by name (10_state.md R22). -/
inductive RegName where
  | k | r | key | size | shard | scr
deriving DecidableEq, Repr

/-- What reaches the block from outside (70_reset_and_hazards.md R356): a command word, the platform's reset between
commands (R330), or the platform's reset while the command `w` is being executed (R333). -/
inductive HostEvent where
  | command (w : Cmd)
  | reset
  | resetDuring (w : Cmd)
deriving DecidableEq, Repr

/-- The state (10_state.md R21), with the open parameters of the instance (`cfg`, log 6) and three fields of the model's
own: the response at the port (`rsp`, log 1), the host events not yet taken, oldest first (`inputs`, R24, log 2), and the
counter that the free values are drawn with (`tick`, log 5). -/
structure State where
  /-- `PAY_MAX` and `SHARD_MAX` (00_scope.md R10). -/
  cfg : Config
  /-- Register 0, `K` (10_state.md R23). -/
  k : Word
  /-- Register 1, `R` (10_state.md R23). -/
  r : Word
  /-- Register 2, `KEY` (10_state.md R26). -/
  key : Word
  /-- Register 3, `SIZE` (10_state.md R27). -/
  size : Word
  /-- Register 4, `SHARD` (10_state.md R28). -/
  shard : Word
  /-- Register 5, `SCR` (10_state.md R29). -/
  scr : Word
  /-- `SLOT[0 .. 255]` (10_state.md R33). -/
  slots : Vector Slot 256
  /-- `FRAG[0 .. 255]` (10_state.md R32). -/
  frag : Vector Memory 256
  /-- `PAY` (10_state.md R39). -/
  pay : Memory
  /-- `MAT[0 .. 3]` (10_state.md R37). -/
  mat : Vector Memory 4
  /-- The field tables (10_state.md R40). -/
  tables : Tables
  /-- The response last given, none before the first. -/
  rsp : Option Response
  /-- What the host will do next. -/
  inputs : List HostEvent
  /-- How many host events have been taken. -/
  tick : Nat
deriving DecidableEq, Repr

/-- Why the machine stops. Nothing raises a fault: an error of the block is a response code, after which it accepts the
next command as usual (60_exceptions.md R296, R297; 30_encoding.md R94). -/
inductive Fault where
deriving DecidableEq, Repr

/-- Why the model gives no meaning. -/
inductive Refusal where
  /-- Raised by an arm of `exec` for a command that has no meaning yet; no arm raises it. Safe: it only stops a run. -/
  | notModelled (mnemonic : String)
deriving DecidableEq, Repr

/-- The state after reset (10_state.md R44): registers and headers 0, memories unspecified (nothing listed), tables filled;
default capacities, no response yet, no host event yet. -/
def State.reset : State where
  cfg := Config.default
  k := 0
  r := 0
  key := 0
  size := 0
  shard := 0
  scr := 0
  slots := Vector.replicate 256 ⟨false, false, 0⟩
  frag := Vector.replicate 256 []
  pay := []
  mat := Vector.replicate 4 []
  tables := Tables.build Config.gen
  rsp := none
  inputs := []
  tick := 0

end Sys2Proof.Machine
end

