-- ==== Sys2Proof/Machine/Operands.lean ====
section
/-! DEFINITION. Operand forms: register numbers (10_state.md R22), the sizes of the address spaces (20_memory.md R60),
matrices as functions of row and column and their row-major layout (R66), and the shard size (45_encoder.md R217). Every
operand is an unsigned field value: no sign extension, no scaling, absolute addresses only (30_encoding.md R92,
47_host_access.md R260). -/

namespace Sys2Proof.Machine

/-- Column `number` of the register file (10_state.md R22). -/
def RegName.number : RegName → BitVec 8
  | .k => 0
  | .r => 1
  | .key => 2
  | .size => 3
  | .shard => 4
  | .scr => 5

/-- The register a number names; 6 to 255 name none (10_state.md R22). -/
def RegName.ofNumber (b : BitVec 8) : Option RegName :=
  [RegName.k, .r, .key, .size, .shard, .scr].find? (fun x => x.number == b)

/-- The host may write registers 0 to 3 only (10_state.md R22, 47_host_access.md R262). -/
def RegName.hostWritable : RegName → Bool
  | .k => true
  | .r => true
  | .key => true
  | .size => true
  | .shard => false
  | .scr => false

/-- How many bytes a space has (20_memory.md R60). -/
def spaceSize (c : Config) : Space → Nat
  | .pay => c.payMax.toNat
  | .frag _ => c.shardMax.toNat
  | .mat _ => Config.bankBytes

/-- A matrix by row and column, both from 0 (42_matrix_algebra.md R155). -/
abbrev Matrix := Nat → Nat → Byte

/-- The bytes of a `rows × cols` matrix, packed and row-major: element `(i, j)` at offset `i * cols + j` (20_memory.md R66). -/
def rowMajor (rows cols : Nat) (f : Matrix) : List Byte :=
  (List.range (rows * cols)).map fun o => f (o / cols) (o % cols)

/-- `ceil(a / b)` for `b ≥ 1` (00_scope.md R12). -/
def ceilDiv (a b : Nat) : Nat := (a + (b - 1)) / b

/-- Slot numbers in ascending order (20_memory.md R60). -/
def allSlots : List (BitVec 8) := (List.range 256).map (BitVec.ofNat 8)

/-- A table of 256 entries, one per slot, by slot number. -/
def perSlot {α : Type} (f : BitVec 8 → α) : Vector α 256 :=
  ⟨⟨allSlots.map f⟩, by simp [allSlots]⟩

end Sys2Proof.Machine
end

