-- ==== Sys2Proof/Machine/Flags.lean ====
section
/-! DEFINITION. The block has no flags, condition codes or predicates (10_state.md R25): what a command reports is its
response code. This file has the numbering of the codes, the response word, and the tests that decide a code. -/

namespace Sys2Proof.Machine

/-- The response code space (60_exceptions.md R290). -/
def Code.number : Code → BitVec 8
  | .ok => 0
  | .error .invalidParameters => 1
  | .error .insufficientFragments => 2
  | .error .singularMatrix => 3
  | .error .invalidContainer => 4
  | .error .illegalCommand => 5
  | .error .capacityExceeded => 6

/-- `RSP[39:0]`: code in bits 39 to 32, data in bits 31 to 0 (30_encoding.md R93). -/
def Response.word (x : Response) : BitVec 40 := x.code.number ++ x.data

/-- `n = k + r`, formed exactly (10_state.md R23). -/
def State.n (s : State) : Nat := s.k.toNat + s.r.toNat

/-- `S = ceil(SIZE / K)` (45_encoder.md R217, 46_decoder.md R238). -/
def State.shardSize (s : State) : Nat := ceilDiv s.size.toNat s.k.toNat

/-- The parameter test of `ENCODE` and `DECODE`: `K < 1` or `K + R > 256`, the sum exact (60_exceptions.md R292). -/
def State.badParameters (s : State) : Bool := decide (s.k.toNat < 1) || decide (s.n > Config.nMax)

/-- The capacity test of `ENCODE` and `DECODE` (60_exceptions.md R294). -/
def State.overCapacity (s : State) : Bool :=
  decide (s.size.toNat > s.cfg.payMax.toNat) || decide (s.shardSize > s.cfg.shardMax.toNat)

/-- The tests that `ENCODE` and `DECODE` make first, in this order (60_exceptions.md R299, points 3 and 4). -/
def State.descriptorError (s : State) : Option ErrorKind :=
  if s.badParameters then some .invalidParameters
  else if s.overCapacity then some .capacityExceeded
  else none

end Sys2Proof.Machine
end

