-- ==== Sys2Proof/Machine/Ops.lean ====
section
/-! DEFINITION. The named operations over memories, registers and slots (00_scope.md R14), how a command ends (its answer,
or an error: 60_exceptions.md R296), and how a host event is taken. -/

namespace Sys2Proof.Machine

/-- The memory of a space (20_memory.md R60). -/
def State.mem (s : State) : Space → Memory
  | .pay => s.pay
  | .frag i => s.frag[i.toNat]'i.isLt
  | .mat b => s.mat[b.toNat]'b.isLt

/-- Replace the memory of a space. -/
def State.setMem (s : State) (sp : Space) (m : Memory) : State :=
  match sp with
  | .pay => { s with pay := m }
  | .frag i => { s with frag := s.frag.set i.toNat m i.isLt }
  | .mat b => { s with mat := s.mat.set b.toNat m b.isLt }

/-- The byte last written at an address since reset, if any: the model's read of one byte. -/
def State.stored (s : State) (sp : Space) (a : Nat) : Option Byte := (s.mem sp).read a

/-- `MemRead(sp, addr, 1)` (00_scope.md R14): the byte stored there, or a free value where no command has written since
reset (47_host_access.md R272, 93_implementation_defined.md U3; log 4). -/
def State.memRead (s : State) (sp : Space) (a : Nat) : Byte :=
  (s.stored sp a).getD (Config.unwrittenByte s.tick sp a)

/-- `MemWrite(sp, addr, 1, v)` (00_scope.md R14). -/
def State.memWrite (s : State) (sp : Space) (a : Nat) (v : Byte) : State := s.setMem sp ((s.mem sp).write a v)

/-- Writes of consecutive bytes from address `a` on. -/
def State.memWriteMany (s : State) (sp : Space) (a : Nat) (vs : List Byte) : State :=
  s.setMem sp ((s.mem sp).writeMany a vs)

/-- `x[i]` (00_scope.md R14). -/
def State.reg (s : State) : RegName → Word
  | .k => s.k
  | .r => s.r
  | .key => s.key
  | .size => s.size
  | .shard => s.shard
  | .scr => s.scr

/-- `x[i] <- v` (00_scope.md R14). -/
def State.setReg (s : State) (x : RegName) (v : Word) : State :=
  match x with
  | .k => { s with k := v }
  | .r => { s with r := v }
  | .key => { s with key := v }
  | .size => { s with size := v }
  | .shard => { s with shard := v }
  | .scr => { s with scr := v }

/-- `SLOT[i]` (10_state.md R33). -/
def State.slot (s : State) (i : BitVec 8) : Slot := s.slots[i.toNat]'i.isLt

/-- `SLOT[i] <- h` (10_state.md R33). -/
def State.setSlot (s : State) (i : BitVec 8) (h : Slot) : State := { s with slots := s.slots.set i.toNat h i.isLt }

/-- `respond(d)` (00_scope.md R14): the command ends with code `OK` and data `d`. -/
def State.respond (s : State) (d : Word) : State := { s with rsp := some ⟨.ok, d⟩ }

/-- `raise e` (60_exceptions.md R296): the command stops, no architectural state changes, the answer is `{e, 0}`. Nothing
is saved and nowhere is jumped to (R297); there is no return (R298). -/
def State.raise (s : State) (e : ErrorKind) : State := { s with rsp := some ⟨.error e, 0⟩ }

/-- How a command started in `s` ends: with an error it leaves `s` but for the answer, whatever it had computed
(60_exceptions.md R296); otherwise in its final state with its data as the answer (30_encoding.md R93). -/
def complete (s : State) (result : Except ErrorKind (State × Word)) : Host.Outcome State Fault Refusal :=
  .next (match result with
    | .error e => s.raise e
    | .ok (t, d) => t.respond d)

/-- The host event at the head of `inputs` is taken: the events after it remain, the counter advances. -/
def State.take (s : State) (rest : List HostEvent) : State := { s with inputs := rest, tick := s.tick + 1 }

/-- The platform's reset (70_reset_and_hazards.md R330, R333): every piece of architectural state is as after reset and no
response stands; the instance's capacities, the host's further events and the counter are not the block's to reset. -/
def State.afterReset (s : State) : State := { State.reset with cfg := s.cfg, inputs := s.inputs, tick := s.tick }

/-- The answer to a word that is no command (30_encoding.md R94). -/
def answerIllegal (_why : Illegal) (s : State) : Host.Outcome State Fault Refusal :=
  complete s (.error .illegalCommand)

end Sys2Proof.Machine
end

