-- ==== Sys2Proof/Machine/Generator.lean ====
section
/-! DEFINITION. The generator matrix builder and GENMAT (41_generator_matrix.md). -/

namespace Sys2Proof.Machine

/-- The index values `x(i) = (i + 1) mod 256` and `y(j) = (j + 1) mod 256` (41_generator_matrix.md R141, R142). -/
def indexValue (i : Nat) : Byte := BitVec.ofNat 8 (i + 1)

/-- Element `(i, j)` of `build(n, k)` (41_generator_matrix.md R141). It does not depend on `n`, which only says how many
rows there are: the identity block above row `k`, the Cauchy block from row `k` on. -/
def build (t : Tables) (k : Nat) : Matrix := fun i j =>
  if i < k then (if i = j then 0x01 else 0x00)
  else gfDiv t 0x01 (indexValue i ^^^ indexValue j)

/-- `GENMAT Md, n, k` (41_generator_matrix.md R146). -/
def execGenmat (d : BitVec 2) (n k : Nat) (s : State) : Host.Outcome State Fault Refusal :=
  complete s
    (if k > n then .error .invalidParameters
     else .ok (s.memWriteMany (.mat d) 0 (rowMajor n k (build s.tables k)), 0))

end Sys2Proof.Machine
end

