-- ==== Sys2Proof/Machine/MatrixAlgebra.lean ====
section
/-! DEFINITION. Matrix product and inverse, MATMUL and MATINV (42_matrix_algebra.md). -/

namespace Sys2Proof.Machine

/-- `f 0 XOR f 1 XOR ... XOR f (n - 1)`; an empty XOR is 0 (42_matrix_algebra.md R156). -/
def xorSum : Nat → (Nat → Byte) → Byte
  | 0, _ => 0
  | n + 1, f => xorSum n f ^^^ f n

/-- `mat_mul(A, B)` with inner dimension `p` (42_matrix_algebra.md R156). -/
def matMul (t : Tables) (p : Nat) (A B : Matrix) : Matrix := fun i j =>
  xorSum p fun l => gfMul t (A i l) (B l j)

/-- The identity matrix. -/
def identity : Matrix := fun i j => if i = j then 0x01 else 0x00

/-- A square matrix held as data, a list of rows: the working copy and the companion matrix of an inversion
(42_matrix_algebra.md R160), which are scratch (10_state.md R41). -/
abbrev Grid := List (List Byte)

/-- The `m × m` grid of a matrix. -/
def Grid.tabulate (m : Nat) (f : Matrix) : Grid :=
  (List.range m).map fun r => (List.range m).map fun c => f r c

/-- Element `(r, c)` of a grid. -/
def Grid.at (g : Grid) : Matrix := fun r c => (g.getD r []).getD c 0

/-- Pivot row of column `i`: row `i` if its entry is non-zero, else the least row below with a non-zero entry, if any
(42_matrix_algebra.md R160, R161). -/
def pivotRow (m i : Nat) (W : Grid) : Option Nat :=
  if W.at i i = 0 then (List.range' (i + 1) (m - (i + 1))).find? (fun j => W.at j i != 0)
  else some i

/-- Swap rows `i` and `j` (42_matrix_algebra.md R160). -/
def swapRows (m i j : Nat) (g : Grid) : Grid :=
  Grid.tabulate m fun r c => if r = i then g.at j c else if r = j then g.at i c else g.at r c

/-- Multiply row `i` by `v` (42_matrix_algebra.md R160, the normalising loop). -/
def scaleRow (t : Tables) (m i : Nat) (v : Byte) (g : Grid) : Grid :=
  Grid.tabulate m fun r c => if r = i then gfMul t (g.at r c) v else g.at r c

/-- From every row `r ≠ i` take `f r` times row `i` (42_matrix_algebra.md R160, the eliminating loop). -/
def clearColumn (t : Tables) (m i : Nat) (f : Nat → Byte) (g : Grid) : Grid :=
  Grid.tabulate m fun r c => if r = i then g.at r c else g.at r c ^^^ gfMul t (f r) (g.at i c)

/-- One pivot of the elimination on the working copy `W` and the companion matrix `C`; none if the column has no pivot
(42_matrix_algebra.md R160). The factor of a row is that row's entry before it changes. -/
def pivotStep (t : Tables) (m i : Nat) (WC : Grid × Grid) : Option (Grid × Grid) :=
  match pivotRow m i WC.1 with
  | none => none
  | some j =>
    let W := swapRows m i j WC.1
    let C := swapRows m i j WC.2
    let v := gfDiv t 0x01 (W.at i i)
    let W' := scaleRow t m i v W
    let C' := scaleRow t m i v C
    some (clearColumn t m i (fun r => W'.at r i) W', clearColumn t m i (fun r => W'.at r i) C')

/-- Pivots `0 .. n - 1` in turn (42_matrix_algebra.md R160). -/
def pivots (t : Tables) (m : Nat) : Nat → Grid × Grid → Option (Grid × Grid)
  | 0, WC => some WC
  | n + 1, WC =>
    match pivots t m n WC with
    | none => none
    | some WC' => pivotStep t m n WC'

/-- `mat_inv(M)` of an `m × m` matrix: the companion matrix after all pivots, none for `SingularMatrix`
(42_matrix_algebra.md R160). -/
def matInv (t : Tables) (m : Nat) (M : Matrix) : Option Matrix :=
  match pivots t m m (Grid.tabulate m M, Grid.tabulate m identity) with
  | none => none
  | some WC => some (Grid.at WC.2)

/-- The matrix with `cols` columns that a bank holds (20_memory.md R66). -/
def bankMatrix (s : State) (b : BitVec 2) (cols : Nat) : Matrix := fun i j => s.memRead (.mat b) (i * cols + j)

/-- `MATMUL Md, Ma, Mb, m, p, q` (42_matrix_algebra.md R158): both sources are read in the state before the command, so
the banks may be the same (R159). -/
def execMatmul (d a b : BitVec 2) (m p q : Nat) (s : State) : Host.Outcome State Fault Refusal :=
  complete s
    (.ok (s.memWriteMany (.mat d) 0 (rowMajor m q (matMul s.tables p (bankMatrix s a p) (bankMatrix s b q))), 0))

/-- `MATINV Md, Ms, m` (42_matrix_algebra.md R166). DESIGN CHOICE (log 17): where source bytes have not been written since
reset, their free values decide whether the matrix has an inverse, so the answer may be `SingularMatrix`; U3 of
93_implementation_defined.md says `OK` of every such command and names no exception for R166. -/
def execMatinv (d src : BitVec 2) (m : Nat) (s : State) : Host.Outcome State Fault Refusal :=
  complete s
    (match matInv s.tables m (bankMatrix s src m) with
     | none => .error .singularMatrix
     | some C => .ok (s.memWriteMany (.mat d) 0 (rowMajor m m C), 0))

end Sys2Proof.Machine
end

