-- ==== Sys2Proof/Machine/Scrambler.lean ====
section
/-! DEFINITION. The scrambler, SCRSEED and SCRBYTE (43_scrambler.md). -/

namespace Sys2Proof.Machine

/-- The state step, modulo `2^32` (43_scrambler.md R181). -/
def lcg (s : Word) : Word := s * Config.scrMul + Config.scrAdd

/-- `s_n` for the key `s_0` (43_scrambler.md R182). -/
def lcgIter : Nat → Word → Word
  | 0, s => s
  | n + 1, s => lcg (lcgIter n s)

/-- `ks(key, t)`: the low byte of the state after `t + 1` steps (43_scrambler.md R182). -/
def ks (key : Word) (t : Nat) : Byte := (lcgIter (t + 1) key).setWidth 8

/-- `transform(bytes, key)`: for each byte, update, then output (43_scrambler.md R182, R183). -/
def transform : List Byte → Word → List Byte
  | [], _ => []
  | x :: xs, key => (x ^^^ (lcg key).setWidth 8) :: transform xs (lcg key)

/-- `SCRSEED key` (43_scrambler.md R185). -/
def execScrseed (key : Word) (s : State) : Host.Outcome State Fault Refusal :=
  complete s (.ok (s.setReg .scr key, 0))

/-- `SCRBYTE byte` (43_scrambler.md R186): the low byte is that of the new state. -/
def execScrbyte (x : Byte) (s : State) : Host.Outcome State Fault Refusal :=
  complete s (.ok (s.setReg .scr (lcg s.scr), (x ^^^ (lcg s.scr).setWidth 8).setWidth 32))

end Sys2Proof.Machine
end

