-- ==== Sys2Proof/Machine/Decoder.lean ====
section
/-! DEFINITION. The decoder, DECODE (46_decoder.md). -/

namespace Sys2Proof.Machine

/-- Step 1, the list `A`: slots valid and alive, in ascending slot number (46_decoder.md R236, R237). -/
def aliveSlots (s : State) : List (BitVec 8) := allSlots.filter fun i => (s.slot i).valid && (s.slot i).alive

/-- Put a slot before the first whose `ID` is not smaller. -/
def insertById (s : State) (x : BitVec 8) : List (BitVec 8) → List (BitVec 8)
  | [] => [x]
  | y :: ys => if (s.slot x).id.toNat ≤ (s.slot y).id.toNat then x :: y :: ys else y :: insertById s x ys

/-- Step 2, the list `B`: sorted by `ID` ascending, slots with equal `ID` keep their order (46_decoder.md R236, R239). -/
def sortById (s : State) : List (BitVec 8) → List (BitVec 8)
  | [] => []
  | x :: xs => insertById s x (sortById s xs)

/-- The slots `s_0 .. s_(k-1)`: the first `k` of the list `B` (46_decoder.md R236). -/
def selectedSlots (s : State) : List (BitVec 8) := (sortById s (aliveSlots s)).take s.k.toNat

/-- Slot `s_l`. -/
def selectedSlot (s : State) (l : Nat) : BitVec 8 := (selectedSlots s).getD l 0

/-- `e_l`, the `ID` of slot `s_l` (46_decoder.md R236). -/
def selectedId (s : State) (l : Nat) : Nat := (s.slot (selectedSlot s l)).id.toNat

/-- Step 3: row `l` of the submatrix is row `e_l` of the generator matrix (46_decoder.md R241). -/
def submatrix (s : State) : Matrix := fun l j => build s.tables s.k.toNat (selectedId s l) j

/-- `F[l][t]`: byte `t` of selected fragment `l` (46_decoder.md R242). -/
def selectedBytes (s : State) : Matrix := fun l t => s.memRead (.frag (selectedSlot s l)) t

/-- Steps 4 to 6: byte `a` of the payload, from the inverse `V`: byte `a mod S` of recovered block `a / S`, descrambled
(46_decoder.md R242, R243). -/
def recoveredByte (s : State) (V : Matrix) (a : Nat) : Byte :=
  matMul s.tables s.k.toNat V (selectedBytes s) (a / s.shardSize) (a % s.shardSize) ^^^ ks s.key (a % s.shardSize)

/-- Step 6: exactly `PAY[0 .. SIZE - 1]` and `SHARD` are written (46_decoder.md R236, R243). -/
def decodeCommit (s : State) (V : Matrix) : State :=
  (s.memWriteMany .pay 0 ((List.range s.size.toNat).map (recoveredByte s V))).setReg .shard
    (BitVec.ofNat 32 s.shardSize)

/-- `DECODE` (46_decoder.md R236), the tests in the order of R247. -/
def execDecode (s : State) : Host.Outcome State Fault Refusal :=
  complete s
    (match s.descriptorError with
     | some e => .error e
     | none =>
       if (aliveSlots s).length < s.k.toNat then .error .insufficientFragments
       else if selectedId s (s.k.toNat - 1) ≥ s.n then .error .invalidParameters
       else match matInv s.tables s.k.toNat (submatrix s) with
         | none => .error .singularMatrix
         | some V => .ok (decodeCommit s V, 0))

end Sys2Proof.Machine
end

