-- ==== Sys2Proof/Machine/Encoder.lean ====
section
/-! DEFINITION. The encoder, ENCODE (45_encoder.md). -/

namespace Sys2Proof.Machine

/-- Byte `a` of the padded payload: `PAY[a]` below `SIZE`, 0 from there on; the padding is virtual (45_encoder.md R217). -/
def paddedByte (s : State) (a : Nat) : Byte := if a < s.size.toNat then s.memRead .pay a else 0x00

/-- `D[i][t]`: byte `t` of scrambled block `i`, every block scrambled from `KEY` on (45_encoder.md R216, R218). -/
def scrambledBlock (s : State) : Matrix := fun i t => paddedByte s (i * s.shardSize + t) ^^^ ks s.key t

/-- `P[q][t]`: byte `t` of parity row `q`, made from the scrambled blocks (45_encoder.md R216, R219). -/
def parityBlock (s : State) : Matrix := fun q t =>
  matMul s.tables s.k.toNat (build s.tables s.k.toNat) (scrambledBlock s) (s.k.toNat + q) t

/-- Byte `t` of fragment `id`: a scrambled block below `K`, a parity row from `K` on (45_encoder.md R221). -/
def fragmentByte (s : State) (id t : Nat) : Byte :=
  if id < s.k.toNat then scrambledBlock s id t else parityBlock s (id - s.k.toNat) t

/-- Steps 5 and 6 of 45_encoder.md R216: the `n` fragments and all 256 headers are written, and `SHARD`. -/
def encodeCommit (s : State) : State :=
  { s with
    frag := perSlot fun i =>
      if i.toNat < s.n then (s.mem (.frag i)).writeMany 0 ((List.range s.shardSize).map (fragmentByte s i.toNat))
      else s.mem (.frag i)
    slots := perSlot fun i => if i.toNat < s.n then ⟨true, true, i⟩ else ⟨false, false, 0⟩
    shard := BitVec.ofNat 32 s.shardSize }

/-- `ENCODE` (45_encoder.md R216). -/
def execEncode (s : State) : Host.Outcome State Fault Refusal :=
  complete s
    (match s.descriptorError with
     | some e => .error e
     | none => .ok (encodeCommit s, 0))

end Sys2Proof.Machine
end

