-- ==== Sys2Proof/Machine/FieldArithmetic.lean ====
section
/-! DEFINITION. GFMUL and GFDIV (40_field_arithmetic.md). -/

namespace Sys2Proof.Machine

/-- `GFMUL a, b` (40_field_arithmetic.md R127). -/
def execGfmul (a b : Byte) (s : State) : Host.Outcome State Fault Refusal :=
  complete s (.ok (s, (gfMul s.tables a b).setWidth 32))

/-- `GFDIV a, b` (40_field_arithmetic.md R128). -/
def execGfdiv (a b : Byte) (s : State) : Host.Outcome State Fault Refusal :=
  complete s (.ok (s, (gfDiv s.tables a b).setWidth 32))

end Sys2Proof.Machine
end

