-- ==== Sys2Proof/Machine/HostAccess.lean ====
section
/-! DEFINITION. The host access commands (47_host_access.md): registers, payload, fragments, slot headers, banks. -/

namespace Sys2Proof.Machine

/-- A read command of a byte space: a missing location answers `IllegalCommand`, any other its byte (20_memory.md R69). -/
def readByte (sp : Space) (a : Nat) (s : State) : Host.Outcome State Fault Refusal :=
  complete s
    (if a ≥ spaceSize s.cfg sp then .error .illegalCommand
     else .ok (s, (s.memRead sp a).setWidth 32))

/-- A write command of a byte space: a missing location answers `IllegalCommand` (20_memory.md R69). -/
def writeByte (sp : Space) (a : Nat) (v : Byte) (s : State) : Host.Outcome State Fault Refusal :=
  complete s
    (if a ≥ spaceSize s.cfg sp then .error .illegalCommand
     else .ok (s.memWrite sp a v, 0))

/-- `WRREG reg, value` (47_host_access.md R262): registers 0 to 3 only. -/
def execWrreg (reg : BitVec 8) (value : Word) (s : State) : Host.Outcome State Fault Refusal :=
  complete s
    (match RegName.ofNumber reg with
     | none => .error .illegalCommand
     | some x => if x.hostWritable then .ok (s.setReg x value, 0) else .error .illegalCommand)

/-- `RDREG reg` (47_host_access.md R261): registers 0 to 5. -/
def execRdreg (reg : BitVec 8) (s : State) : Host.Outcome State Fault Refusal :=
  complete s
    (match RegName.ofNumber reg with
     | none => .error .illegalCommand
     | some x => .ok (s, s.reg x))

/-- `WRPAY addr, byte` (47_host_access.md R264). -/
def execWrpay (addr : Word) (x : Byte) (s : State) : Host.Outcome State Fault Refusal :=
  writeByte .pay addr.toNat x s

/-- `RDPAY addr` (47_host_access.md R263). -/
def execRdpay (addr : Word) (s : State) : Host.Outcome State Fault Refusal :=
  readByte .pay addr.toNat s

/-- `WRFRAG slot, off, byte` (47_host_access.md R266). -/
def execWrfrag (slot : BitVec 8) (off : Word) (x : Byte) (s : State) : Host.Outcome State Fault Refusal :=
  writeByte (.frag slot) off.toNat x s

/-- `RDFRAG slot, off` (47_host_access.md R265). -/
def execRdfrag (slot : BitVec 8) (off : Word) (s : State) : Host.Outcome State Fault Refusal :=
  readByte (.frag slot) off.toNat s

/-- `WRSLOT slot, id, valid, alive` (47_host_access.md R267). -/
def execWrslot (slot : BitVec 8) (id : Byte) (valid alive : Bool) (s : State) : Host.Outcome State Fault Refusal :=
  complete s (.ok (s.setSlot slot ⟨valid, alive, id⟩, 0))

/-- A header as `RDSLOT` reports it: `data[9] = VALID`, `data[8] = ALIVE`, `data[7:0] = ID` (47_host_access.md R269). -/
def Slot.word (h : Slot) : Word := 0#22 ++ BitVec.ofBool h.valid ++ BitVec.ofBool h.alive ++ h.id

/-- `RDSLOT slot` (47_host_access.md R269). -/
def execRdslot (slot : BitVec 8) (s : State) : Host.Outcome State Fault Refusal :=
  complete s (.ok (s, (s.slot slot).word))

/-- `ALIVE slot, v` (47_host_access.md R268): `VALID` and `ID` keep their values. -/
def execAlive (slot : BitVec 8) (v : Bool) (s : State) : Host.Outcome State Fault Refusal :=
  complete s (.ok (s.setSlot slot { s.slot slot with alive := v }, 0))

/-- `WRMAT Mb, off, byte` (47_host_access.md R271): every encodable location exists. -/
def execWrmat (bank : BitVec 2) (off : BitVec 16) (x : Byte) (s : State) : Host.Outcome State Fault Refusal :=
  writeByte (.mat bank) off.toNat x s

/-- `RDMAT Mb, off` (47_host_access.md R270): every encodable location exists. -/
def execRdmat (bank : BitVec 2) (off : BitVec 16) (s : State) : Host.Outcome State Fault Refusal :=
  readByte (.mat bank) off.toNat s

end Sys2Proof.Machine
end

