-- ==== Sys2Proof/Machine/Dispatch.lean ====
section
/-! DEFINITION. One arm per command of the opcode map (30_encoding.md R96). -/

namespace Sys2Proof.Machine

def exec (i : Instr) (s : State) : Host.Outcome State Fault Refusal :=
  match i with
  | .gfmul a b => Sys2Proof.Machine.execGfmul a b s
  | .gfdiv a b => Sys2Proof.Machine.execGfdiv a b s
  | .genmat d n k => Sys2Proof.Machine.execGenmat d n k s
  | .matmul d a b m p q => Sys2Proof.Machine.execMatmul d a b m p q s
  | .matinv d src m => Sys2Proof.Machine.execMatinv d src m s
  | .scrseed key => Sys2Proof.Machine.execScrseed key s
  | .scrbyte x => Sys2Proof.Machine.execScrbyte x s
  | .encode => Sys2Proof.Machine.execEncode s
  | .decode => Sys2Proof.Machine.execDecode s
  | .wrreg reg value => Sys2Proof.Machine.execWrreg reg value s
  | .rdreg reg => Sys2Proof.Machine.execRdreg reg s
  | .wrpay addr x => Sys2Proof.Machine.execWrpay addr x s
  | .rdpay addr => Sys2Proof.Machine.execRdpay addr s
  | .wrfrag slot off x => Sys2Proof.Machine.execWrfrag slot off x s
  | .rdfrag slot off => Sys2Proof.Machine.execRdfrag slot off s
  | .wrslot slot id valid alive => Sys2Proof.Machine.execWrslot slot id valid alive s
  | .rdslot slot => Sys2Proof.Machine.execRdslot slot s
  | .alive slot v => Sys2Proof.Machine.execAlive slot v s
  | .wrmat bank off x => Sys2Proof.Machine.execWrmat bank off x s
  | .rdmat bank off => Sys2Proof.Machine.execRdmat bank off s

end Sys2Proof.Machine
end

