-- ==== Sys2Proof/Machine/Step.lean ====
section
/-! DEFINITION. One step: the host's next event is taken. -/

namespace Sys2Proof.Machine

/-- One step (10_state.md R20, R24; 70_reset_and_hazards.md R350, R355). A command word is decoded and executed to
completion, and its answer stands in `rsp`; a word that is no command answers `IllegalCommand` (30_encoding.md R94). A
reset gives the reset state, also when it arrives while a command is executed, which is then abandoned without a response
(R330, R333). Where the host does nothing more the block is idle and holds its state (60_exceptions.md R309; log 2). -/
def step (s : State) : Host.Outcome State Fault Refusal :=
  match s.inputs with
  | [] => .next s
  | .command w :: rest =>
    match decode w with
    | .ok i => exec i (s.take rest)
    | .error why => answerIllegal why (s.take rest)
  | .reset :: rest => .next (s.take rest).afterReset
  | .resetDuring _ :: rest => .next (s.take rest).afterReset

/-- The host issues this word next (log 2). -/
def State.withFetchWord (s : State) (nbits w : Nat) : State :=
  { s with inputs := .command (BitVec.ofNat 64 (w % 2 ^ nbits)) :: s.inputs }

end Sys2Proof.Machine
end

