-- ==== Sys2Proof/Machine/Assembler.lean ====
section
/-! DEFINITION. The assembler's table and its pseudo-commands (30_encoding.md R99, R100), on operands already read as
numbers, register names and bank numbers (log 14). -/

namespace Sys2Proof.Machine

/-- A register operand: its name, or a number (30_encoding.md R99; 95_test_vectors.md section 10 writes `RDREG 6`). -/
inductive RegOperand where
  | name (x : RegName)
  | number (n : Nat)
deriving DecidableEq, Repr

/-- One line of assembly, column "syntax" of 30_encoding.md R99, and the pseudo-commands of R100. -/
inductive AsmLine where
  | gfmul (a b : Nat)
  | gfdiv (a b : Nat)
  | genmat (d n k : Nat)
  | matmul (d a b m p q : Nat)
  | matinv (d src m : Nat)
  | scrseed (key : Nat)
  | scrbyte (x : Nat)
  | encode
  | decode
  | wrreg (reg : RegOperand) (value : Nat)
  | rdreg (reg : RegOperand)
  | wrpay (addr x : Nat)
  | rdpay (addr : Nat)
  | wrfrag (slot off x : Nat)
  | rdfrag (slot off : Nat)
  | wrslot (slot id valid alive : Nat)
  | rdslot (slot : Nat)
  | alive (slot v : Nat)
  | wrmat (bank off x : Nat)
  | rdmat (bank off : Nat)
  /-- `KILL slot` -/
  | kill (slot : Nat)
  /-- `REVIVE slot` -/
  | revive (slot : Nat)
  /-- `CLRSLOT slot` -/
  | clrslot (slot : Nat)
  /-- `INV a` -/
  | inv (a : Nat)
deriving DecidableEq, Repr

/-- A number as a field of `w` bits, if it fits (30_encoding.md R92: unsigned, no scaling). -/
def field (w n : Nat) : Option (BitVec w) := if n < 2 ^ w then some (BitVec.ofNat w n) else none

/-- A dimension or count, `1 .. 256` (30_encoding.md R92, R99). -/
def dim (n : Nat) : Option Nat := if dimOk n then some n else none

/-- A one-bit operand, 0 or 1 (30_encoding.md R99). -/
def bit (n : Nat) : Option Bool := if n = 0 then some false else if n = 1 then some true else none

/-- The register field of an operand (10_state.md R22). -/
def RegOperand.field : RegOperand → Option (BitVec 8)
  | .name x => some x.number
  | .number n => Machine.field 8 n

/-- The expansion of a pseudo-command (30_encoding.md R100); any other line is itself. -/
def AsmLine.expand : AsmLine → AsmLine
  | .kill slot => .alive slot 0
  | .revive slot => .alive slot 1
  | .clrslot slot => .wrslot slot 0 0 0
  | .inv a => .gfdiv 1 a
  | l => l

/-- The command of a core line, column "fields" of 30_encoding.md R99; none where an operand does not fit its field. -/
def AsmLine.assemble : AsmLine → Option Instr
  | .gfmul a b => return .gfmul (← field 8 a) (← field 8 b)
  | .gfdiv a b => return .gfdiv (← field 8 a) (← field 8 b)
  | .genmat d n k => return .genmat (← field 2 d) (← dim n) (← dim k)
  | .matmul d a b m p q => return .matmul (← field 2 d) (← field 2 a) (← field 2 b) (← dim m) (← dim p) (← dim q)
  | .matinv d src m => return .matinv (← field 2 d) (← field 2 src) (← dim m)
  | .scrseed key => return .scrseed (← field 32 key)
  | .scrbyte x => return .scrbyte (← field 8 x)
  | .encode => some .encode
  | .decode => some .decode
  | .wrreg reg value => return .wrreg (← reg.field) (← field 32 value)
  | .rdreg reg => return .rdreg (← reg.field)
  | .wrpay addr x => return .wrpay (← field 32 addr) (← field 8 x)
  | .rdpay addr => return .rdpay (← field 32 addr)
  | .wrfrag slot off x => return .wrfrag (← field 8 slot) (← field 32 off) (← field 8 x)
  | .rdfrag slot off => return .rdfrag (← field 8 slot) (← field 32 off)
  | .wrslot slot id v a => return .wrslot (← field 8 slot) (← field 8 id) (← bit v) (← bit a)
  | .rdslot slot => return .rdslot (← field 8 slot)
  | .alive slot v => return .alive (← field 8 slot) (← bit v)
  | .wrmat bank off x => return .wrmat (← field 2 bank) (← field 16 off) (← field 8 x)
  | .rdmat bank off => return .rdmat (← field 2 bank) (← field 16 off)
  | .kill _ => none
  | .revive _ => none
  | .clrslot _ => none
  | .inv _ => none

/-- The word of a line (30_encoding.md R99, R100). -/
def AsmLine.word (l : AsmLine) : Option Cmd := l.expand.assemble.map Sys2Proof.encode

end Sys2Proof.Machine
end

