-- ==== Sys2Proof/Machine/Container.lean ====
section
/-! DEFINITION. The fragment container codec of the host (44_container_codec.md). It has no command and changes no state of
the block (log 13). -/

namespace Sys2Proof.Machine

/-- What a container holds of a fragment and its descriptor (44_container_codec.md R195, R198). The fingerprint and the name
are byte strings: ASCII and UTF-8 are not interpreted (R196, R200). -/
structure Container where
  id : Byte
  k : Nat
  r : Nat
  size : Word
  fingerprint : List Byte
  name : List Byte
  bytes : List Byte
deriving DecidableEq, Repr

/-- What the one-byte fields can hold: `k ≤ 255` (44_container_codec.md R203), a name of at most 255 bytes (R204), `r ≤ 255`
(R203). -/
def Container.storable (c : Container) : Bool :=
  decide (c.k ≤ 255) && decide (c.r ≤ 255) && decide (c.name.length ≤ 255)

/-- The fingerprint cut or filled with spaces on the right to exactly 12 bytes (44_container_codec.md R196, R199). -/
def fingerprintField (f : List Byte) : List Byte := (f ++ List.replicate 12 0x20).take 12

/-- A 32-bit number, most significant byte first (44_container_codec.md R197, 20_memory.md R63). -/
def bigEndian (w : Word) : List Byte :=
  [w.extractLsb' 24 8, w.extractLsb' 16 8, w.extractLsb' 8 8, w.extractLsb' 0 8]

/-- `serialize` (44_container_codec.md R199): the fields in the order of R195. None where a field cannot hold its value
(R203, R204): a host model refuses those inputs. -/
def serialize (c : Container) : Option (List Byte) :=
  if c.storable then
    some ([c.id, BitVec.ofNat 8 c.k, BitVec.ofNat 8 c.r] ++ bigEndian c.size ++ fingerprintField c.fingerprint ++
      [BitVec.ofNat 8 c.name.length] ++ c.name ++ c.bytes)
  else none

/-- `deserialize` (44_container_codec.md R200): two length tests and no other, then each field. -/
def deserialize (b : List Byte) : Except ErrorKind Container :=
  let L := (b.getD 19 0).toNat
  if b.length < 20 then .error .invalidContainer
  else if b.length < 20 + L then .error .invalidContainer
  else
    .ok {
      id := b.getD 0 0
      k := (b.getD 1 0).toNat
      r := (b.getD 2 0).toNat
      size := b.getD 3 0 ++ b.getD 4 0 ++ b.getD 5 0 ++ b.getD 6 0
      fingerprint := (b.drop 7).take 12
      name := (b.drop 20).take L
      bytes := b.drop (20 + L) }

end Sys2Proof.Machine
end

