-- ==== Sys2Proof/Safety.lean ====
section
/-! DEFINITION. What counts as a good state, in the terms the claims use. -/

namespace Sys2Proof.Machine

/-- The hidden tables are the ones built before the first command (10_state.md R40, 70_reset_and_hazards.md R331). -/
abbrev State.tablesBuilt (s : State) : Prop := s.tables = Tables.build Config.gen

/-- Every memory has its canonical form, and lists only addresses that exist in this instance (20_memory.md R60). -/
def State.memoryGood (s : State) : Prop :=
  ∀ sp : Space, (s.mem sp).wf ∧ (s.mem sp).within (spaceSize s.cfg sp)

/-- The response at the port is one the block can give: `InvalidContainer` is never produced, and an error has data 0
(60_exceptions.md R290, R296; 30_encoding.md R93). -/
def State.responseGood (s : State) : Prop :=
  ∀ x, s.rsp = some x → x.code ≠ .error .invalidContainer ∧ (x.code ≠ .ok → x.data = 0)

/-- The invariant of the block: legal capacities, tables as built, good memories, a response the block can give. -/
structure State.Inv (s : State) : Prop where
  cfgLegal : s.cfg.legal
  tables : s.tablesBuilt
  memory : s.memoryGood
  response : s.responseGood

/-- The command ended in `t` with code `OK` and this data (00_scope.md R14). -/
abbrev State.answered (t : State) (d : Word) : Prop := t.rsp = some ⟨.ok, d⟩

/-- The command started in `s` ended in `t` with an error: `t` is `s` but for the answer `{e, 0}` (60_exceptions.md R296). -/
abbrev State.failed (s : State) (e : ErrorKind) : State := { s with rsp := some ⟨.error e, 0⟩ }

/-- `S = ceil(size / k)`: the least natural `q` with `q * k ≥ size` (00_scope.md R12). -/
def isCeil (size k S : Nat) : Prop := size ≤ S * k ∧ ∀ q, size ≤ q * k → S ≤ q

/-- The descriptor in `K`, `R`, `SIZE` passes the parameter test (60_exceptions.md R292) and its dataset, of shard size `S`,
the capacity test (R294). -/
structure State.Fits (s : State) (S : Nat) : Prop where
  kPos : 1 ≤ s.k.toNat
  nMax : s.k.toNat + s.r.toNat ≤ 256
  ceil : isCeil s.size.toNat s.k.toNat S
  pay : s.size.toNat ≤ s.cfg.payMax.toNat
  slot : S ≤ s.cfg.shardMax.toNat

/-- What a command that makes the descriptor tests answers where one fails, the parameter test first, and that it then
changes nothing (60_exceptions.md R292, R294, R296, R299). -/
def descriptorTestsFirst (i : Instr) (s : State) : Prop :=
  (s.k.toNat < 1 ∨ s.k.toNat + s.r.toNat > 256 → exec i s = .next (s.failed .invalidParameters)) ∧
  (∀ S, 1 ≤ s.k.toNat → s.k.toNat + s.r.toNat ≤ 256 → isCeil s.size.toNat s.k.toNat S →
    s.size.toNat > s.cfg.payMax.toNat ∨ S > s.cfg.shardMax.toNat → exec i s = .next (s.failed .capacityExceeded))

/-- `D[i][t]` of 45_encoder.md R216 for shard size `S`: byte `t` of scrambled block `i`. -/
def State.dataByte (s : State) (S i t : Nat) : Byte :=
  (if i * S + t < s.size.toNat then s.memRead .pay (i * S + t) else 0x00) ^^^ ks s.key t

/-- How many slots are valid and alive with an `ID` below `v` (46_decoder.md R237); for `v = 256`, how many are valid and
alive. -/
def State.aliveBelow (s : State) (v : Nat) : Nat :=
  allSlots.countP fun x => (s.slot x).valid && (s.slot x).alive && decide ((s.slot x).id.toNat < v)

/-- The order of the selection: by `ID`, equal `ID`s by slot number (46_decoder.md R239). -/
def State.before (s : State) (x y : BitVec 8) : Prop :=
  (s.slot x).id.toNat < (s.slot y).id.toNat ∨ ((s.slot x).id = (s.slot y).id ∧ x.toNat < y.toNat)

/-- `A · B` is the `m × m` identity. -/
def productIsIdentity (t : Tables) (m : Nat) (A B : Matrix) : Prop :=
  ∀ i j, i < m → j < m → matMul t m A B i j = identity i j

/-- `v · x` in the field: shift left to 9 bits, XOR with `0x11D` if bit 8 is set, keep the low 8 bits
(40_field_arithmetic.md R124). -/
def xtime (v : Byte) : Byte :=
  let w : BitVec 9 := v.setWidth 9 <<< 1
  (if w.getLsbD 8 then w ^^^ 0x11D else w).setWidth 8

/-- `g` is a multiplicative generator: its first 255 powers visit every non-zero byte (40_field_arithmetic.md R124). -/
def isGenerator (g : Byte) : Prop := ∀ a : Byte, a ≠ 0 → a ∈ powers g 255 0x01

/-- The conditions under which a command answers an error code (60_exceptions.md R291); where a command never answers a
code, false. A matrix without an inverse is one for the tables the block has: `MATINV`'s is the one in the source bank, `DECODE`'s
the selected rows of the generator matrix. -/
def errorCondition (s : State) (i : Instr) (e : ErrorKind) : Prop :=
  match i, e with
  | .genmat _ n k, .invalidParameters => k > n
  | .matinv _ src m, .singularMatrix => s.tablesBuilt → ¬∃ A, productIsIdentity s.tables m (bankMatrix s src m) A
  | .encode, .invalidParameters => s.k.toNat < 1 ∨ s.k.toNat + s.r.toNat > 256
  | .encode, .capacityExceeded =>
    s.size.toNat > s.cfg.payMax.toNat ∨ ∀ S, isCeil s.size.toNat s.k.toNat S → S > s.cfg.shardMax.toNat
  | .decode, .invalidParameters =>
    s.k.toNat < 1 ∨ s.k.toNat + s.r.toNat > 256 ∨ s.aliveBelow (s.k.toNat + s.r.toNat) < s.k.toNat
  | .decode, .capacityExceeded =>
    s.size.toNat > s.cfg.payMax.toNat ∨ ∀ S, isCeil s.size.toNat s.k.toNat S → S > s.cfg.shardMax.toNat
  | .decode, .insufficientFragments => s.aliveBelow 256 < s.k.toNat
  | .decode, .singularMatrix => s.tablesBuilt → ¬∃ V, productIsIdentity s.tables s.k.toNat V (submatrix s)
  | .rdreg reg, .illegalCommand => reg.toNat > 5
  | .wrreg reg _, .illegalCommand => reg.toNat > 3
  | .rdpay addr, .illegalCommand => addr.toNat ≥ s.cfg.payMax.toNat
  | .wrpay addr _, .illegalCommand => addr.toNat ≥ s.cfg.payMax.toNat
  | .rdfrag _ off, .illegalCommand => off.toNat ≥ s.cfg.shardMax.toNat
  | .wrfrag _ off _, .illegalCommand => off.toNat ≥ s.cfg.shardMax.toNat
  | _, _ => False

/-- Commands executed one after another (20_memory.md R73), each with its response. -/
def executeAll : List Instr → State → State × List (Instr × Option Response)
  | [], s => (s, [])
  | i :: is, s =>
    match exec i s with
    | .next t => ((executeAll is t).1, (i, t.rsp) :: (executeAll is t).2)
    | .fault _ => (s, [])
    | .refused _ => (s, [])

/-- The operand of a `SCRBYTE`. -/
def scrbyteOperand : Instr → Option Byte
  | .scrbyte x => some x
  | _ => none

/-- The response of a `SCRBYTE`. -/
def scrbyteResponse (x : Instr × Option Response) : Option Response :=
  match x.1 with
  | .scrbyte _ => x.2
  | _ => none

end Sys2Proof.Machine
end

