-- ==== Sys2Proof/Certificates/Slice0/Obligations.lean ====
section
/-! DEFINITION. The statements for the provers. Each holds for every value of the free values and, but where `State.reset` is
named, for every capacity of the instance. -/

open Sys2Proof Sys2Proof.Machine

/-! ## Encoding -/

/-- 30_encoding.md R101: every worked encoding, both ways. -/
def Obligations.WorkedEncodingsAgree : Prop :=
  ∀ p ∈ ([(0x0153CA0000000000, .gfmul 0x53 0xCA), (0x0201060000000000, .gfdiv 1 6),
      (0x1000000000000905, .genmat 0 10 6), (0x1103010200050505, .matmul 3 1 2 6 6 6),
      (0x1202010000000005, .matinv 2 1 6), (0x12000000000000FF, .matinv 0 0 256),
      (0x200000000000002A, .scrseed 42), (0x2148000000000000, .scrbyte 0x48),
      (0x3000000000000000, .encode), (0x3100000000000000, .decode),
      (0x4000000000000006, .wrreg 0 6), (0x400300000000000B, .wrreg 3 11),
      (0x4104000000000000, .rdreg 4), (0x4248000000000000, .wrpay 0 0x48),
      (0x430000000000000A, .rdpay 10), (0x4403A30000000001, .wrfrag 3 1 0xA3),
      (0x4506000000000000, .rdfrag 6 0), (0x4602090300000000, .wrslot 2 9 true true),
      (0x4702000000000000, .rdslot 2), (0x4807000000000000, .alive 7 false),
      (0x4807010000000000, .alive 7 true), (0x49013D0000000023, .wrmat 1 35 0x3D),
      (0x4A00000000000024, .rdmat 0 36)] : List (Cmd × Instr)),
    decode p.1 = .ok p.2 ∧ encode p.2 = p.1

/-- Decoding the encoding of a well-formed command gives it back, every operand at every value (30_encoding.md R92, R96, R99). -/
def Obligations.DecodeOfEncode : Prop :=
  ∀ i : Instr, i.wellFormed = true → decode (encode i) = .ok i

/-- A word has one meaning: the command it decodes to is well formed and encodes to that word (30_encoding.md R94, R96). -/
def Obligations.EncodeOfDecode : Prop :=
  ∀ (w : Cmd) (i : Instr), decode w = .ok i → encode i = w ∧ i.wellFormed = true

/-- 30_encoding.md R94 with the masks of R96: the three steps of decoding, and what an illegal word does. -/
def Obligations.WordIsCommandOrIllegal : Prop :=
  (∀ w : Cmd, (∀ o : Op, o.number ≠ w.extractLsb' 56 8) → decode w = .error .reservedOpcode) ∧
  (∀ (w : Cmd) (o : Op), o.number = w.extractLsb' 56 8 → w &&& o.mask ≠ o.pattern → decode w = .error .mustBeZero) ∧
  (∀ (w : Cmd) (o : Op), w &&& o.mask = o.pattern ↔ ∃ i, decode w = .ok i ∧ i.op = o) ∧
  (∀ (s : State) (w : Cmd) (rest : List HostEvent), s.inputs = .command w :: rest →
    (∀ o : Op, w &&& o.mask ≠ o.pattern) →
    step s = .next { s with inputs := rest, tick := s.tick + 1, rsp := some ⟨.error .illegalCommand, 0⟩ })

/-- 30_encoding.md R95: 236 opcode values are reserved, `0x00` and `0xFF` among them. -/
def Obligations.ReservedOpcodesAreIllegal : Prop :=
  ((List.range 256).countP fun b => Op.all.all fun o => o.number != BitVec.ofNat 8 b) = 236 ∧
  decode 0x0000000000000000 = .error .reservedOpcode ∧
  decode 0xFFFFFFFFFFFFFFFF = .error .reservedOpcode

/-- The step runs the decoded command, in the state with the word taken from the host's list (10_state.md R24; the list and
the counter are the model's, log 2 and log 5). -/
def Obligations.StepRunsDecodedCommand : Prop :=
  (∀ (s : State) (w : Cmd) (rest : List HostEvent) (i : Instr), s.inputs = .command w :: rest → decode w = .ok i →
    step s = exec i { s with inputs := rest, tick := s.tick + 1 }) ∧
  (∀ (s : State) (w : Cmd) (i : Instr), decode w = .ok i →
    step (s.withFetchWord 64 w.toNat) = exec i { s with tick := s.tick + 1 })

/-- Every word, legal or not, in every state, gets exactly one response, one that the block can give (30_encoding.md R93,
R98; 60_exceptions.md R290). -/
def Obligations.EveryWordGetsOneResponse : Prop :=
  ∀ (s : State) (w : Cmd) (rest : List HostEvent), s.inputs = .command w :: rest →
    ∃ t x, step s = .next t ∧ t.rsp = some x ∧ x.code ≠ .error .invalidContainer ∧ (x.code ≠ .ok → x.data = 0) ∧
      t.inputs = rest

/-- 30_encoding.md R93 and 60_exceptions.md R290: the response word and the numbers of the codes. -/
def Obligations.ResponseWordLayout : Prop :=
  (∀ x : Response, x.word.extractLsb' 32 8 = x.code.number ∧ x.word.extractLsb' 0 32 = x.data) ∧
  Code.number .ok = 0 ∧ Code.number (.error .invalidParameters) = 1 ∧
  Code.number (.error .insufficientFragments) = 2 ∧ Code.number (.error .singularMatrix) = 3 ∧
  Code.number (.error .invalidContainer) = 4 ∧ Code.number (.error .illegalCommand) = 5 ∧
  Code.number (.error .capacityExceeded) = 6

/-! ## The whole machine -/

/-- The invariant holds after reset. -/
def Obligations.ResetMeetsInvariant : Prop := State.reset.Inv

/-- Every step keeps the invariant: capacities legal, tables as built, memories canonical and inside their spaces, the
response one the block can give. -/
def Obligations.StepKeepsInvariant : Prop :=
  ∀ s t : State, s.Inv → step s = .next t → t.Inv

/-- 10_state.md R44: the state after reset. That an unspecified byte is one that is not stored is the model's form (log 4). -/
def Obligations.ResetValues : Prop :=
  (∀ x : RegName, State.reset.reg x = 0) ∧
  (∀ x : BitVec 8, State.reset.slot x = ⟨false, false, 0⟩) ∧
  (∀ (sp : Space) (a : Nat), State.reset.stored sp a = none) ∧
  State.reset.tables = Tables.build Config.gen

/-- 70_reset_and_hazards.md R330, R333: the platform's reset, between commands or during one. MODEL'S CHOICE: that a reset is
a host event that keeps the capacities and the later events (log 3), and that no response stands after it: R333 gives none to
an abandoned command, and `t.rsp = none` after a plain reset is the choice of log 1. An unspecified byte is one that is not
stored (log 4). -/
def Obligations.ResetEventGivesResetState : Prop :=
  ∀ (s : State) (e : HostEvent) (rest : List HostEvent), s.inputs = e :: rest →
    (e = .reset ∨ ∃ w, e = .resetDuring w) →
    ∃ t, step s = .next t ∧ t.rsp = none ∧ (∀ x : RegName, t.reg x = 0) ∧
      (∀ x : BitVec 8, t.slot x = ⟨false, false, 0⟩) ∧ (∀ (sp : Space) (a : Nat), t.stored sp a = none) ∧
      t.tables = Tables.build Config.gen ∧ t.cfg = s.cfg ∧ t.inputs = rest

/-- MODEL'S CHOICE. With no event left the block is idle and holds its state: the model's reading (log 2) of 60_exceptions.md R309. -/
def Obligations.IdleBlockHoldsState : Prop :=
  ∀ s : State, s.inputs = [] → step s = .next s

/-- 60_exceptions.md R296: an error changes no state, and its answer is the code and data 0. -/
def Obligations.ErrorChangesNoState : Prop :=
  ∀ (i : Instr) (s t : State) (e : ErrorKind) (d : Word), exec i s = .next t → t.rsp = some ⟨.error e, d⟩ →
    d = 0 ∧ t = s.failed e

/-- 60_exceptions.md R291: which command can answer which code, and under which condition; "no inverse" is said for the tables
the block has (`tablesBuilt`, part of the invariant), and for MATINV of bytes never written since reset of their free values,
the model's choice (log 17). -/
def Obligations.ErrorsOnlyUnderTheirConditions : Prop :=
  ∀ (i : Instr) (s t : State) (e : ErrorKind) (d : Word), exec i s = .next t → t.rsp = some ⟨.error e, d⟩ →
    errorCondition s i e

/-- 10_state.md R22, columns "host access" and "written by the engine in". -/
def Obligations.WhoWritesRegisters : Prop :=
  ∀ (i : Instr) (s t : State), exec i s = .next t →
    ((∀ reg v, i ≠ .wrreg reg v) → t.k = s.k ∧ t.r = s.r ∧ t.key = s.key ∧ t.size = s.size) ∧
    (i ≠ .encode → i ≠ .decode → t.shard = s.shard) ∧
    ((∀ key, i ≠ .scrseed key) → (∀ x, i ≠ .scrbyte x) → t.scr = s.scr)

/-- 10_state.md R36, R33: who writes fragment memory and slot headers. -/
def Obligations.WhoWritesFragmentStore : Prop :=
  ∀ (i : Instr) (s t : State), exec i s = .next t →
    (i ≠ .encode → (∀ x off v, i ≠ .wrfrag x off v) → t.frag = s.frag) ∧
    (i ≠ .encode → (∀ x id v a, i ≠ .wrslot x id v a) → (∀ x v, i ≠ .alive x v) → t.slots = s.slots)

/-- 10_state.md R37, R38, R39, R40 and 40_field_arithmetic.md R131: who writes the payload memory, which command writes
which bank, and that no command writes the field tables or the parameters of the instance. -/
def Obligations.WhoWritesMemories : Prop :=
  ∀ (i : Instr) (s t : State), exec i s = .next t →
    (i ≠ .decode → (∀ a v, i ≠ .wrpay a v) → t.pay = s.pay) ∧
    (∀ b : BitVec 2, (∀ n k, i ≠ .genmat b n k) → (∀ x y m p q, i ≠ .matmul b x y m p q) →
      (∀ x m, i ≠ .matinv b x m) → (∀ o v, i ≠ .wrmat b o v) → t.mem (.mat b) = s.mem (.mat b)) ∧
    t.tables = s.tables ∧ t.cfg = s.cfg

/-! ## Field arithmetic -/

/-- 40_field_arithmetic.md R124: how the tables are filled for `g = 0x02`. -/
def Obligations.FieldTablesAreFilled : Prop :=
  (Tables.build Config.gen).expAt 0 = 0x01 ∧
  (∀ i, i < 254 → (Tables.build Config.gen).expAt (i + 1) = xtime ((Tables.build Config.gen).expAt i)) ∧
  (∀ i, i < 257 → (Tables.build Config.gen).expAt (i + 255) = (Tables.build Config.gen).expAt i) ∧
  (∀ i, i < 255 → (Tables.build Config.gen).logAt ((Tables.build Config.gen).expAt i) = i) ∧
  (∀ a : Byte, a ≠ 0 → (Tables.build Config.gen).expAt ((Tables.build Config.gen).logAt a) = a) ∧
  (Tables.build Config.gen).exp.toList.take 16 =
    [0x01, 0x02, 0x04, 0x08, 0x10, 0x20, 0x40, 0x80, 0x1D, 0x3A, 0x74, 0xE8, 0xCD, 0x87, 0x13, 0x26] ∧
  (Tables.build Config.gen).expAt 254 = 0x8E ∧
  (Tables.build Config.gen).log.toList.take 5 = [0, 1, 25, 2, 50]

/-- 40_field_arithmetic.md R126: whatever generator the tables are built from, `gf_mul` and `gf_div` are multiplication and
division modulo the field polynomial, and no command shows which generator it was. -/
def Obligations.FieldOperationsIndependentOfGenerator : Prop :=
  ∀ g : Byte, isGenerator g →
    (∀ a b : Byte,
      gfMul (Tables.build g) a b = polyMul a b ∧
      gfDiv (Tables.build g) a 0 = 0 ∧
      (b ≠ 0 → ∀ c : Byte, polyMul c b = a ↔ c = gfDiv (Tables.build g) a b)) ∧
    ∀ (i : Instr) (s : State), s.tablesBuilt →
      ∃ t, exec i s = .next t ∧
        exec i { s with tables := Tables.build g } = .next { t with tables := Tables.build g }

/-- 40_field_arithmetic.md R129: the laws of the field, each line of the table. -/
def Obligations.FieldLaws : Prop :=
  ∀ a b c : Byte,
    gfMul (Tables.build Config.gen) a b = gfMul (Tables.build Config.gen) b a ∧
    gfMul (Tables.build Config.gen) (gfMul (Tables.build Config.gen) a b) c =
      gfMul (Tables.build Config.gen) a (gfMul (Tables.build Config.gen) b c) ∧
    gfMul (Tables.build Config.gen) a (b ^^^ c) =
      gfMul (Tables.build Config.gen) a b ^^^ gfMul (Tables.build Config.gen) a c ∧
    gfMul (Tables.build Config.gen) a 1 = a ∧ gfDiv (Tables.build Config.gen) a 1 = a ∧
    gfMul (Tables.build Config.gen) a 0 = 0 ∧ gfMul (Tables.build Config.gen) 0 a = 0 ∧
    gfDiv (Tables.build Config.gen) 0 b = 0 ∧
    (gfMul (Tables.build Config.gen) a b = 0 → a = 0 ∨ b = 0) ∧
    (a ≠ 0 → gfMul (Tables.build Config.gen) a (gfDiv (Tables.build Config.gen) 1 a) = 1) ∧
    (b ≠ 0 → gfDiv (Tables.build Config.gen) (gfMul (Tables.build Config.gen) a b) b = a ∧
      gfMul (Tables.build Config.gen) (gfDiv (Tables.build Config.gen) a b) b = a) ∧
    gfDiv (Tables.build Config.gen) a 0 = 0

/-- 40_field_arithmetic.md R127: GFMUL answers the product and changes nothing but the response. -/
def Obligations.GfmulAnswersProduct : Prop :=
  (∀ a b : Byte, decode (0x01#8 ++ a ++ b ++ 0#8 ++ 0#32) = .ok (.gfmul a b)) ∧
  ∀ (a b : Byte) (s : State), s.tablesBuilt →
    exec (.gfmul a b) s = .next { s with rsp := some ⟨.ok, (polyMul a b).setWidth 32⟩ }

/-- 40_field_arithmetic.md R128, R130: GFDIV answers the quotient, 0 for divisor 0, and changes nothing but the response. -/
def Obligations.GfdivAnswersQuotient : Prop :=
  (∀ a b : Byte, decode (0x02#8 ++ a ++ b ++ 0#8 ++ 0#32) = .ok (.gfdiv a b)) ∧
  ∀ (a b : Byte) (s : State), s.tablesBuilt →
    ∃ c : Byte, exec (.gfdiv a b) s = .next { s with rsp := some ⟨.ok, c.setWidth 32⟩ } ∧
      (b = 0 → c = 0) ∧ (b ≠ 0 → polyMul c b = a)

/-! ## Matrices -/

/-- 41_generator_matrix.md R146, R141: what GENMAT writes, and its one error. -/
def Obligations.GenmatWritesGenerator : Prop :=
  (∀ (d : BitVec 2) (n1 k1 : Byte),
    decode (0x10#8 ++ (0#6 ++ d) ++ 0#8 ++ 0#8 ++ (0#16 ++ n1 ++ k1)) = .ok (.genmat d (n1.toNat + 1) (k1.toNat + 1))) ∧
  ∀ (d : BitVec 2) (n k : Nat) (s : State), 1 ≤ n → n ≤ 256 → 1 ≤ k → k ≤ 256 →
    (k ≤ n → ∃ t, exec (.genmat d n k) s = .next t ∧ t = { s with mat := t.mat, rsp := some ⟨.ok, 0⟩ } ∧
      (∀ i j, i < n → j < k → t.stored (.mat d) (i * k + j) =
        some (if i < k then (if i = j then 0x01 else 0x00)
          else gfDiv s.tables 0x01 (BitVec.ofNat 8 ((i + 1) % 256) ^^^ BitVec.ofNat 8 ((j + 1) % 256)))) ∧
      (∀ o, n * k ≤ o → t.stored (.mat d) o = s.stored (.mat d) o) ∧
      (∀ b, b ≠ d → ∀ o, t.stored (.mat b) o = s.stored (.mat b) o)) ∧
    (n < k → exec (.genmat d n k) s = .next (s.failed .invalidParameters))

/-- 41_generator_matrix.md R143: the divisor of a Cauchy entry is never zero, and the entry is its inverse and not zero. -/
def Obligations.CauchyEntriesAreInverses : Prop :=
  ∀ n k i j : Nat, 1 ≤ k → n ≤ 256 → k ≤ i → i < n → j < k →
    indexValue i ^^^ indexValue j ≠ 0 ∧
    gfMul (Tables.build Config.gen) (build (Tables.build Config.gen) k i j) (indexValue i ^^^ indexValue j) = 1 ∧
    build (Tables.build Config.gen) k i j ≠ 0

/-- 41_generator_matrix.md R145: any `k` distinct rows of `build(n, k)` invert; with a row taken twice they do not. -/
def Obligations.AnyDistinctRowsInvert : Prop :=
  ∀ (n k : Nat) (e : Nat → Nat), 1 ≤ k → k ≤ n → n ≤ 256 → (∀ l, l < k → e l < n) →
    ((∀ l m, l < k → m < k → e l = e m → l = m) →
      ∃ V, matInv (Tables.build Config.gen) k (fun l j => build (Tables.build Config.gen) k (e l) j) = some V ∧
        productIsIdentity (Tables.build Config.gen) k V (fun l j => build (Tables.build Config.gen) k (e l) j)) ∧
    (∀ l m, l < k → m < k → e l = e m → l ≠ m →
      matInv (Tables.build Config.gen) k (fun l j => build (Tables.build Config.gen) k (e l) j) = none)

/-- 42_matrix_algebra.md R158, R159: what MATMUL writes, also where the banks are the same. -/
def Obligations.MatmulWritesProduct : Prop :=
  (∀ (d a b : BitVec 2) (m1 p1 q1 : Byte),
    decode (0x11#8 ++ (0#6 ++ d) ++ (0#6 ++ a) ++ (0#6 ++ b) ++ (0#8 ++ m1 ++ p1 ++ q1)) =
      .ok (.matmul d a b (m1.toNat + 1) (p1.toNat + 1) (q1.toNat + 1))) ∧
  ∀ (d a b : BitVec 2) (m p q : Nat) (s : State), 1 ≤ m → m ≤ 256 → 1 ≤ p → p ≤ 256 → 1 ≤ q → q ≤ 256 →
    ∃ t, exec (.matmul d a b m p q) s = .next t ∧ t = { s with mat := t.mat, rsp := some ⟨.ok, 0⟩ } ∧
      (∀ i j, i < m → j < q → t.stored (.mat d) (i * q + j) =
        some (xorSum p fun l => gfMul s.tables (s.memRead (.mat a) (i * p + l)) (s.memRead (.mat b) (l * q + j)))) ∧
      (∀ o, m * q ≤ o → t.stored (.mat d) o = s.stored (.mat d) o) ∧
      (∀ x, x ≠ d → ∀ o, t.stored (.mat x) o = s.stored (.mat x) o)

/-- 42_matrix_algebra.md R166, R163: where the matrix in the source bank has an inverse, MATINV writes it; where it has none,
MATINV answers `SingularMatrix` and writes nothing. For source bytes never written since reset both cases speak of their
free values, the model's choice (log 17). -/
def Obligations.MatinvWritesInverse : Prop :=
  (∀ (d src : BitVec 2) (m1 : Byte),
    decode (0x12#8 ++ (0#6 ++ d) ++ (0#6 ++ src) ++ 0#8 ++ (0#24 ++ m1)) = .ok (.matinv d src (m1.toNat + 1))) ∧
  ∀ (d src : BitVec 2) (m : Nat) (s : State), s.tablesBuilt → 1 ≤ m → m ≤ 256 →
    ((∃ A, productIsIdentity s.tables m (fun i j => s.memRead (.mat src) (i * m + j)) A) →
      ∃ (t : State) (C : Matrix), exec (.matinv d src m) s = .next t ∧
        t = { s with mat := t.mat, rsp := some ⟨.ok, 0⟩ } ∧
        productIsIdentity s.tables m (fun i j => s.memRead (.mat src) (i * m + j)) C ∧
        productIsIdentity s.tables m C (fun i j => s.memRead (.mat src) (i * m + j)) ∧
        (∀ i j, i < m → j < m → t.stored (.mat d) (i * m + j) = some (C i j)) ∧
        (∀ o, m * m ≤ o → t.stored (.mat d) o = s.stored (.mat d) o) ∧
        (∀ x, x ≠ d → ∀ o, t.stored (.mat x) o = s.stored (.mat x) o)) ∧
    ((¬∃ A, productIsIdentity s.tables m (fun i j => s.memRead (.mat src) (i * m + j)) A) →
      exec (.matinv d src m) s = .next (s.failed .singularMatrix))

/-- 42_matrix_algebra.md R164, R163: `mat_inv` raises `SingularMatrix` exactly when the matrix has no inverse, and exactly
when its rows are linearly dependent; what it returns is the inverse on both sides. -/
def Obligations.MatinvSingularExactlyWithoutInverse : Prop :=
  ∀ (m : Nat) (M : Matrix),
    (matInv (Tables.build Config.gen) m M = none ↔ ¬∃ A, productIsIdentity (Tables.build Config.gen) m M A) ∧
    (matInv (Tables.build Config.gen) m M = none ↔
      ∃ c : Nat → Byte, (∃ l, l < m ∧ c l ≠ 0) ∧
        ∀ j, j < m → xorSum m (fun l => gfMul (Tables.build Config.gen) (c l) (M l j)) = 0) ∧
    (∀ C, matInv (Tables.build Config.gen) m M = some C →
      productIsIdentity (Tables.build Config.gen) m M C ∧ productIsIdentity (Tables.build Config.gen) m C M)

/-! ## Scrambler -/

/-- 43_scrambler.md R185: SCRSEED sets `SCR` and nothing else; the first SCRBYTE after it uses `lcg(key)`. -/
def Obligations.ScrseedSetsState : Prop :=
  (∀ key : Word, decode (0x20#8 ++ 0#8 ++ 0#8 ++ 0#8 ++ key) = .ok (.scrseed key)) ∧
  (∀ (key : Word) (s : State), exec (.scrseed key) s = .next { s with scr := key, rsp := some ⟨.ok, 0⟩ }) ∧
  (∀ (key : Word) (s t : State) (x : Byte), exec (.scrseed key) s = .next t →
    exec (.scrbyte x) t = .next { s with
      scr := BitVec.ofNat 32 ((key.toNat * 1664525 + 1013904223) % 2 ^ 32)
      rsp := some ⟨.ok,
        (x ^^^ BitVec.ofNat 8 ((key.toNat * 1664525 + 1013904223) % 256)).setWidth 32⟩ })

/-- 43_scrambler.md R186, R181: SCRBYTE advances `SCR` by one step and answers the byte XOR the new low byte. -/
def Obligations.ScrbyteAdvancesState : Prop :=
  (∀ x : Byte, decode (0x21#8 ++ x ++ 0#8 ++ 0#8 ++ 0#32) = .ok (.scrbyte x)) ∧
  ∀ (x : Byte) (s : State),
    exec (.scrbyte x) s = .next { s with
      scr := BitVec.ofNat 32 ((s.scr.toNat * 1664525 + 1013904223) % 2 ^ 32)
      rsp := some ⟨.ok,
        (x ^^^ BitVec.ofNat 8 ((s.scr.toNat * 1664525 + 1013904223) % 256)).setWidth 32⟩ }

/-- 43_scrambler.md R183: the transform keeps the length and combines byte `t` with `ks(key, t)`. -/
def Obligations.TransformIsPositional : Prop :=
  ∀ (x : List Byte) (key : Word), (transform x key).length = x.length ∧
    ∀ t (h : t < x.length), (transform x key)[t]? = some (x[t] ^^^ ks key t)

/-- 43_scrambler.md R184: the transform undoes itself. -/
def Obligations.TransformUndoesItself : Prop :=
  ∀ (x : List Byte) (key : Word), transform (transform x key) key = x

/-- 43_scrambler.md R187: after `SCRSEED key` the `SCRBYTE`s answer the transform of their operands, whatever other commands
(no `SCRSEED`) stand between them, and `SCR` ends as `s_L`. -/
def Obligations.StreamedScramblerIsTransform : Prop :=
  ∀ (key : Word) (cs : List Instr) (s : State), (∀ i ∈ cs, ∀ key', i ≠ .scrseed key') →
    (executeAll (.scrseed key :: cs) s).2.filterMap scrbyteResponse =
      (transform (cs.filterMap scrbyteOperand) key).map (fun b => ⟨.ok, b.setWidth 32⟩) ∧
    (executeAll (.scrseed key :: cs) s).1.scr = lcgIter (cs.filterMap scrbyteOperand).length key

/-! ## Encoder and decoder -/

/-- 45_encoder.md R216: the tests of ENCODE, and what it writes. -/
def Obligations.EncodeWritesFragments : Prop :=
  decode (0x30#8 ++ 0#8 ++ 0#8 ++ 0#8 ++ 0#32) = .ok .encode ∧
  (∀ s : State, descriptorTestsFirst .encode s) ∧
  ∀ (s : State) (S : Nat), s.Fits S →
    ∃ t, exec .encode s = .next t ∧
      t = { s with frag := t.frag, slots := t.slots, shard := BitVec.ofNat 32 S, rsp := some ⟨.ok, 0⟩ } ∧
      (∀ i b, i < s.k.toNat → b < S → t.stored (.frag (BitVec.ofNat 8 i)) b = some (s.dataByte S i b)) ∧
      (∀ q b, q < s.r.toNat → b < S → t.stored (.frag (BitVec.ofNat 8 (s.k.toNat + q))) b =
        some (xorSum s.k.toNat fun l =>
          gfMul s.tables (build s.tables s.k.toNat (s.k.toNat + q) l) (s.dataByte S l b))) ∧
      (∀ (x : BitVec 8) (b : Nat), s.k.toNat + s.r.toNat ≤ x.toNat ∨ S ≤ b →
        t.stored (.frag x) b = s.stored (.frag x) b) ∧
      (∀ x : BitVec 8, t.slot x =
        if x.toNat < s.k.toNat + s.r.toNat then ⟨true, true, x⟩ else ⟨false, false, 0⟩)

/-- 45_encoder.md R217: ENCODE does not read `PAY` at or above `SIZE`, nor the banks, nor `SCR` (D23). -/
def Obligations.EncodeReadsOnlyThePayload : Prop :=
  ∀ (s s' : State), s' = { s with pay := s'.pay, mat := s'.mat, scr := s'.scr } →
    (∀ a, a < s.size.toNat → s'.stored .pay a = s.stored .pay a) →
    ∃ t t', exec .encode s = .next t ∧ exec .encode s' = .next t' ∧
      t'.frag = t.frag ∧ t'.slots = t.slots ∧ t'.shard = t.shard ∧ t'.rsp = t.rsp

/-- 46_decoder.md R247 with R236, R237, R240: the tests of DECODE up to the id range, in their order. -/
def Obligations.DecodeTestsInOrder : Prop :=
  decode (0x31#8 ++ 0#8 ++ 0#8 ++ 0#8 ++ 0#32) = .ok .decode ∧
  (∀ s : State, descriptorTestsFirst .decode s) ∧
  ∀ (s : State) (S : Nat), s.Fits S →
    (s.aliveBelow 256 < s.k.toNat → exec .decode s = .next (s.failed .insufficientFragments)) ∧
    (s.k.toNat ≤ s.aliveBelow 256 → s.aliveBelow (s.k.toNat + s.r.toNat) < s.k.toNat →
      exec .decode s = .next (s.failed .invalidParameters))

/-- 46_decoder.md R239: the selected slots are the first `K` alive ones by `ID`, equal `ID`s by slot number. -/
def Obligations.SelectionTakesSmallestIds : Prop :=
  ∀ s : State, s.k.toNat ≤ s.aliveBelow 256 →
    (selectedSlots s).length = s.k.toNat ∧
    (∀ x ∈ selectedSlots s, (s.slot x).valid = true ∧ (s.slot x).alive = true) ∧
    (selectedSlots s).Pairwise s.before ∧
    (∀ x ∈ selectedSlots s, ∀ y : BitVec 8, (s.slot y).valid = true → (s.slot y).alive = true →
      y ∉ selectedSlots s → s.before x y)

/-- 46_decoder.md R236, steps 3 to 6: where the submatrix of the selected rows has an inverse, DECODE writes the payload. -/
def Obligations.DecodeWritesPayload : Prop :=
  ∀ (s : State) (S : Nat) (V : Matrix), s.tablesBuilt → s.Fits S →
    s.k.toNat ≤ s.aliveBelow (s.k.toNat + s.r.toNat) →
    productIsIdentity s.tables s.k.toNat V
      (fun l j => build s.tables s.k.toNat (s.slot ((selectedSlots s).getD l 0)).id.toNat j) →
    ∃ t, exec .decode s = .next t ∧
      t = { s with pay := t.pay, shard := BitVec.ofNat 32 S, rsp := some ⟨.ok, 0⟩ } ∧
      (∀ i b, i < s.k.toNat → b < S → i * S + b < s.size.toNat → t.stored .pay (i * S + b) =
        some ((xorSum s.k.toNat fun l =>
          gfMul s.tables (V i l) (s.memRead (.frag ((selectedSlots s).getD l 0)) b)) ^^^ ks s.key b)) ∧
      (∀ a, s.size.toNat ≤ a → t.stored .pay a = s.stored .pay a)

/-- 46_decoder.md R248: two alive slots with the same id among the selected: `SingularMatrix`, and nothing is written. -/
def Obligations.DuplicateSelectedIdIsSingular : Prop :=
  ∀ (s : State) (S v : Nat), s.tablesBuilt → s.Fits S →
    s.k.toNat ≤ s.aliveBelow (s.k.toNat + s.r.toNat) →
    s.aliveBelow v + 2 ≤ s.aliveBelow (v + 1) → s.aliveBelow v + 2 ≤ s.k.toNat →
    exec .decode s = .next (s.failed .singularMatrix)

/-- 46_decoder.md R248, first row: with all `K` data fragments alive, in any slots, DECODE descrambles them in order. -/
def Obligations.DecodeOfDataFragments : Prop :=
  ∀ (s : State) (S : Nat) (f : Nat → BitVec 8), s.tablesBuilt → s.Fits S →
    (∀ i, i < s.k.toNat → s.slot (f i) = ⟨true, true, BitVec.ofNat 8 i⟩) →
    s.aliveBelow s.k.toNat = s.k.toNat →
    ∃ t, exec .decode s = .next t ∧
      t = { s with pay := t.pay, shard := BitVec.ofNat 32 S, rsp := some ⟨.ok, 0⟩ } ∧
      (∀ i b, i < s.k.toNat → b < S → i * S + b < s.size.toNat →
        t.stored .pay (i * S + b) = some (s.memRead (.frag (f i)) b ^^^ ks s.key b)) ∧
      (∀ a, s.size.toNat ≤ a → t.stored .pay a = s.stored .pay a)

/-- 46_decoder.md R244: whatever at least `K` fragments of an encoded dataset are alive, DECODE gives back the payload. -/
def Obligations.DecodeRecoversEncodedPayload : Prop :=
  ∀ (s t t' : State) (S : Nat), s.tablesBuilt → s.Fits S → exec .encode s = .next t →
    t'.cfg = t.cfg → t'.tables = t.tables → t'.k = t.k → t'.r = t.r → t'.key = t.key → t'.size = t.size →
    t'.frag = t.frag → (∀ x : BitVec 8, (t'.slot x).valid = (t.slot x).valid ∧ (t'.slot x).id = (t.slot x).id) →
    t'.k.toNat ≤ t'.aliveBelow 256 →
    ∃ u, exec .decode t' = .next u ∧ u.answered 0 ∧
      ∀ a, a < s.size.toNat → u.stored .pay a = some (s.memRead .pay a)

/-- 46_decoder.md R245: with another key DECODE answers `OK`, and byte `i * S + t` differs by the two keystream bytes. -/
def Obligations.WrongKeyXorsKeystreams : Prop :=
  ∀ (s t : State) (S : Nat) (key' : Word), s.Fits S → exec .decode s = .next t → t.answered 0 →
    ∃ t', exec .decode { s with key := key' } = .next t' ∧ t'.answered 0 ∧
      ∀ i b, i < s.k.toNat → b < S → i * S + b < s.size.toNat →
        ∃ v : Byte, t.stored .pay (i * S + b) = some v ∧
          t'.stored .pay (i * S + b) = some (v ^^^ ks s.key b ^^^ ks key' b)

/-- 46_decoder.md R248: DECODE reads the bytes of the selected slots only; dead, empty and unselected fragments have no
effect. -/
def Obligations.DecodeReadsOnlySelectedFragments : Prop :=
  ∀ (s s' : State), s' = { s with frag := s'.frag, mat := s'.mat, scr := s'.scr } →
    (∀ x ∈ selectedSlots s, s'.mem (.frag x) = s.mem (.frag x)) →
    ∃ t t', exec .decode s = .next t ∧ exec .decode s' = .next t' ∧
      t'.rsp = t.rsp ∧ t'.pay = t.pay ∧ t'.shard = t.shard

/-! ## Host access -/

/-- 47_host_access.md R261: RDREG. -/
def Obligations.RdregAnswersRegister : Prop :=
  (∀ reg : BitVec 8, decode (0x41#8 ++ reg ++ 0#8 ++ 0#8 ++ 0#32) = .ok (.rdreg reg)) ∧
  ∀ s : State,
    exec (.rdreg 0) s = .next { s with rsp := some ⟨.ok, s.k⟩ } ∧
    exec (.rdreg 1) s = .next { s with rsp := some ⟨.ok, s.r⟩ } ∧
    exec (.rdreg 2) s = .next { s with rsp := some ⟨.ok, s.key⟩ } ∧
    exec (.rdreg 3) s = .next { s with rsp := some ⟨.ok, s.size⟩ } ∧
    exec (.rdreg 4) s = .next { s with rsp := some ⟨.ok, s.shard⟩ } ∧
    exec (.rdreg 5) s = .next { s with rsp := some ⟨.ok, s.scr⟩ } ∧
    ∀ reg : BitVec 8, reg.toNat > 5 → exec (.rdreg reg) s = .next (s.failed .illegalCommand)

/-- 47_host_access.md R262: WRREG. -/
def Obligations.WrregWritesRegister : Prop :=
  (∀ (reg : BitVec 8) (v : Word), decode (0x40#8 ++ reg ++ 0#8 ++ 0#8 ++ v) = .ok (.wrreg reg v)) ∧
  ∀ (s : State) (v : Word),
    exec (.wrreg 0 v) s = .next { s with k := v, rsp := some ⟨.ok, 0⟩ } ∧
    exec (.wrreg 1 v) s = .next { s with r := v, rsp := some ⟨.ok, 0⟩ } ∧
    exec (.wrreg 2 v) s = .next { s with key := v, rsp := some ⟨.ok, 0⟩ } ∧
    exec (.wrreg 3 v) s = .next { s with size := v, rsp := some ⟨.ok, 0⟩ } ∧
    ∀ reg : BitVec 8, reg.toNat > 3 → exec (.wrreg reg v) s = .next (s.failed .illegalCommand)

/-- 47_host_access.md R263, R272: RDPAY answers the stored byte, some byte where none is stored, and changes nothing. -/
def Obligations.RdpayAnswersByte : Prop :=
  (∀ addr : Word, decode (0x43#8 ++ 0#8 ++ 0#8 ++ 0#8 ++ addr) = .ok (.rdpay addr)) ∧
  ∀ (s : State) (addr : Word),
    (addr.toNat < s.cfg.payMax.toNat → ∃ v : Byte,
      exec (.rdpay addr) s = .next { s with rsp := some ⟨.ok, v.setWidth 32⟩ } ∧
      ∀ u, s.stored .pay addr.toNat = some u → v = u) ∧
    (s.cfg.payMax.toNat ≤ addr.toNat → exec (.rdpay addr) s = .next (s.failed .illegalCommand))

/-- 47_host_access.md R264: WRPAY. -/
def Obligations.WrpayWritesByte : Prop :=
  (∀ (addr : Word) (x : Byte), decode (0x42#8 ++ x ++ 0#8 ++ 0#8 ++ addr) = .ok (.wrpay addr x)) ∧
  ∀ (s : State) (addr : Word) (x : Byte),
    (addr.toNat < s.cfg.payMax.toNat → ∃ t, exec (.wrpay addr x) s = .next t ∧
      t = { s with pay := t.pay, rsp := some ⟨.ok, 0⟩ } ∧
      t.stored .pay addr.toNat = some x ∧
      ∀ a, a ≠ addr.toNat → t.stored .pay a = s.stored .pay a) ∧
    (s.cfg.payMax.toNat ≤ addr.toNat → exec (.wrpay addr x) s = .next (s.failed .illegalCommand))

/-- 47_host_access.md R265, R272: RDFRAG. The header of the slot is not consulted. -/
def Obligations.RdfragAnswersByte : Prop :=
  (∀ (slot : BitVec 8) (off : Word), decode (0x45#8 ++ slot ++ 0#8 ++ 0#8 ++ off) = .ok (.rdfrag slot off)) ∧
  ∀ (s : State) (slot : BitVec 8) (off : Word),
    (off.toNat < s.cfg.shardMax.toNat → ∃ v : Byte,
      exec (.rdfrag slot off) s = .next { s with rsp := some ⟨.ok, v.setWidth 32⟩ } ∧
      ∀ u, s.stored (.frag slot) off.toNat = some u → v = u) ∧
    (s.cfg.shardMax.toNat ≤ off.toNat → exec (.rdfrag slot off) s = .next (s.failed .illegalCommand))

/-- 47_host_access.md R266: WRFRAG. The header of the slot is not touched, nor any other slot. -/
def Obligations.WrfragWritesByte : Prop :=
  (∀ (slot : BitVec 8) (off : Word) (x : Byte),
    decode (0x44#8 ++ slot ++ x ++ 0#8 ++ off) = .ok (.wrfrag slot off x)) ∧
  ∀ (s : State) (slot : BitVec 8) (off : Word) (x : Byte),
    (off.toNat < s.cfg.shardMax.toNat → ∃ t, exec (.wrfrag slot off x) s = .next t ∧
      t = { s with frag := t.frag, rsp := some ⟨.ok, 0⟩ } ∧
      t.stored (.frag slot) off.toNat = some x ∧
      ∀ (y : BitVec 8) (a : Nat), ¬(y = slot ∧ a = off.toNat) → t.stored (.frag y) a = s.stored (.frag y) a) ∧
    (s.cfg.shardMax.toNat ≤ off.toNat → exec (.wrfrag slot off x) s = .next (s.failed .illegalCommand))

/-- 47_host_access.md R267: WRSLOT writes the three fields of one header. -/
def Obligations.WrslotWritesHeader : Prop :=
  (∀ (slot : BitVec 8) (id : Byte) (valid alive : Bool),
    decode (0x46#8 ++ slot ++ id ++ (0#6 ++ BitVec.ofBool valid ++ BitVec.ofBool alive) ++ 0#32) =
      .ok (.wrslot slot id valid alive)) ∧
  ∀ (s : State) (slot : BitVec 8) (id : Byte) (valid alive : Bool),
    ∃ t, exec (.wrslot slot id valid alive) s = .next t ∧ t = { s with slots := t.slots, rsp := some ⟨.ok, 0⟩ } ∧
      t.slot slot = ⟨valid, alive, id⟩ ∧ ∀ x, x ≠ slot → t.slot x = s.slot x

/-- 47_host_access.md R268: ALIVE writes one bit of one header; issuing it twice is harmless. -/
def Obligations.AliveWritesOneBit : Prop :=
  (∀ (slot : BitVec 8) (v : Bool),
    decode (0x48#8 ++ slot ++ (0#7 ++ BitVec.ofBool v) ++ 0#8 ++ 0#32) = .ok (.alive slot v)) ∧
  ∀ (s : State) (slot : BitVec 8) (v : Bool),
    ∃ t, exec (.alive slot v) s = .next t ∧ t = { s with slots := t.slots, rsp := some ⟨.ok, 0⟩ } ∧
      t.slot slot = ⟨(s.slot slot).valid, v, (s.slot slot).id⟩ ∧ (∀ x, x ≠ slot → t.slot x = s.slot x) ∧
      exec (.alive slot v) t = .next t

/-- 47_host_access.md R269: RDSLOT answers `{VALID, ALIVE, ID}` in the low ten bits. -/
def Obligations.RdslotAnswersHeader : Prop :=
  (∀ slot : BitVec 8, decode (0x47#8 ++ slot ++ 0#8 ++ 0#8 ++ 0#32) = .ok (.rdslot slot)) ∧
  ∀ (s : State) (slot : BitVec 8), ∃ d : Word,
    exec (.rdslot slot) s = .next { s with rsp := some ⟨.ok, d⟩ } ∧
    d.getLsbD 9 = (s.slot slot).valid ∧ d.getLsbD 8 = (s.slot slot).alive ∧
    d.extractLsb' 0 8 = (s.slot slot).id ∧ d.extractLsb' 10 22 = 0

/-- 47_host_access.md R270, R272: RDMAT. -/
def Obligations.RdmatAnswersByte : Prop :=
  (∀ (b : BitVec 2) (off : BitVec 16),
    decode (0x4A#8 ++ (0#6 ++ b) ++ 0#8 ++ 0#8 ++ (0#16 ++ off)) = .ok (.rdmat b off)) ∧
  ∀ (s : State) (b : BitVec 2) (off : BitVec 16), ∃ v : Byte,
    exec (.rdmat b off) s = .next { s with rsp := some ⟨.ok, v.setWidth 32⟩ } ∧
    ∀ u, s.stored (.mat b) off.toNat = some u → v = u

/-- 47_host_access.md R271: WRMAT. -/
def Obligations.WrmatWritesByte : Prop :=
  (∀ (b : BitVec 2) (off : BitVec 16) (x : Byte),
    decode (0x49#8 ++ (0#6 ++ b) ++ x ++ 0#8 ++ (0#16 ++ off)) = .ok (.wrmat b off x)) ∧
  ∀ (s : State) (b : BitVec 2) (off : BitVec 16) (x : Byte),
    ∃ t, exec (.wrmat b off x) s = .next t ∧ t = { s with mat := t.mat, rsp := some ⟨.ok, 0⟩ } ∧
      t.stored (.mat b) off.toNat = some x ∧
      ∀ (y : BitVec 2) (a : Nat), ¬(y = b ∧ a = off.toNat) → t.stored (.mat y) a = s.stored (.mat y) a

/-- 20_memory.md R61, R73: after a write command that answers `OK`, the matching read command answers the byte written,
whatever commands that do not write the space stand between, and answers it again. -/
def Obligations.WrittenByteReadsBack : Prop :=
  (∀ (s t : State) (addr : Word) (x : Byte) (cs : List Instr), exec (.wrpay addr x) s = .next t → t.answered 0 →
    (∀ i ∈ cs, i ≠ .decode ∧ ∀ a v, i ≠ .wrpay a v) →
    ∃ u, exec (.rdpay addr) (executeAll cs t).1 = .next u ∧ u.answered (x.setWidth 32) ∧
      exec (.rdpay addr) u = .next u) ∧
  (∀ (s t : State) (slot : BitVec 8) (off : Word) (x : Byte) (cs : List Instr),
    exec (.wrfrag slot off x) s = .next t → t.answered 0 →
    (∀ i ∈ cs, i ≠ .encode ∧ ∀ o v, i ≠ .wrfrag slot o v) →
    ∃ u, exec (.rdfrag slot off) (executeAll cs t).1 = .next u ∧ u.answered (x.setWidth 32) ∧
      exec (.rdfrag slot off) u = .next u) ∧
  (∀ (s t : State) (b : BitVec 2) (off : BitVec 16) (x : Byte) (cs : List Instr),
    exec (.wrmat b off x) s = .next t →
    (∀ i ∈ cs, (∀ n k, i ≠ .genmat b n k) ∧ (∀ y z m p q, i ≠ .matmul b y z m p q) ∧ (∀ y m, i ≠ .matinv b y m) ∧
      ∀ o v, i ≠ .wrmat b o v) →
    ∃ u, exec (.rdmat b off) (executeAll cs t).1 = .next u ∧ u.answered (x.setWidth 32) ∧
      exec (.rdmat b off) u = .next u)

/-! ## Host software -/

/-- 44_container_codec.md R195, R196, R197, R199: where each field of a container stands, and that `serialize` gives bytes
wherever each field can hold its value. That it gives none elsewhere is the host model's refusal of R203 and R204 (log 13). -/
def Obligations.ContainerLayout : Prop :=
  (∀ c : Container, c.k ≤ 255 → c.r ≤ 255 → c.name.length ≤ 255 → ∃ b, serialize c = some b) ∧
  (∀ c : Container, c.k > 255 ∨ c.r > 255 ∨ c.name.length > 255 → serialize c = none) ∧
  ∀ (c : Container) (b : List Byte), serialize c = some b →
    b.length = 20 + c.name.length + c.bytes.length ∧
    b[0]? = some c.id ∧ b[1]? = some (BitVec.ofNat 8 c.k) ∧ b[2]? = some (BitVec.ofNat 8 c.r) ∧
    (b.drop 3).take 4 = [c.size.extractLsb' 24 8, c.size.extractLsb' 16 8, c.size.extractLsb' 8 8,
      c.size.extractLsb' 0 8] ∧
    (∀ i, i < 12 → b[7 + i]? = some (c.fingerprint.getD i 0x20)) ∧
    b[19]? = some (BitVec.ofNat 8 c.name.length) ∧
    (b.drop 20).take c.name.length = c.name ∧ b.drop (20 + c.name.length) = c.bytes

/-- 44_container_codec.md R201: what is serialized reads back, the fingerprint in its 12-byte form. -/
def Obligations.ContainerReadsBack : Prop :=
  ∀ (c : Container) (b : List Byte), serialize c = some b →
    deserialize b = .ok { c with fingerprint := fingerprintField c.fingerprint }

/-- 44_container_codec.md R200: `InvalidContainer` exactly when the input is shorter than 20 bytes or than `20 + L`; otherwise
each field is what the layout has there. -/
def Obligations.InvalidContainerExactlyWhenTooShort : Prop :=
  ∀ b : List Byte,
    (b.length < 20 ∨ b.length < 20 + (b.getD 19 0).toNat ↔ deserialize b = .error .invalidContainer) ∧
    (20 ≤ b.length → 20 + (b.getD 19 0).toNat ≤ b.length →
      ∃ c, deserialize b = .ok c ∧ serialize c = some b ∧ c.fingerprint.length = 12)

/-- 30_encoding.md R100: the pseudo-commands. -/
def Obligations.PseudoCommandsExpand : Prop :=
  (∀ slot : BitVec 8, (AsmLine.kill slot.toNat).word = some (encode (.alive slot false))) ∧
  (∀ slot : BitVec 8, (AsmLine.revive slot.toNat).word = some (encode (.alive slot true))) ∧
  (∀ slot : BitVec 8, (AsmLine.clrslot slot.toNat).word = some (encode (.wrslot slot 0 false false))) ∧
  (∀ a : Byte, (AsmLine.inv a.toNat).word = some (encode (.gfdiv 1 a)))
end

