-- ==== Sys2Proof/Laws/Decode.lean ====
section
/-! SUPPORT. The fields of a word and the word of fields. -/

namespace Sys2Proof

/-- The fields of a word written field by field (30_encoding.md R90). -/
theorem Fields.ofWord_append (op f1 f2 f3 : Byte) (imm : Word) :
    Fields.ofWord (op ++ f1 ++ f2 ++ f3 ++ imm) = ⟨op, f1, f2, f3, imm⟩ := by
  simp only [Fields.ofWord, Fields.mk.injEq]
  refine ⟨?_, ?_, ?_, ?_, ?_⟩ <;>
    (apply BitVec.eq_of_getLsbD_eq; intro i hi; simp only [BitVec.getLsbD_extractLsb', BitVec.getLsbD_append])
  · simp [hi, show ¬(56 + i < 32) by omega, show ¬(56 + i - 32 < 8) by omega, show ¬(56 + i - 32 - 8 < 8) by omega,
      show ¬(56 + i - 32 - 8 - 8 < 8) by omega, show 56 + i - 32 - 8 - 8 - 8 = i by omega]
  · simp [hi, show ¬(48 + i < 32) by omega, show ¬(48 + i - 32 < 8) by omega, show ¬(48 + i - 32 - 8 < 8) by omega,
      show 48 + i - 32 - 8 - 8 = i by omega]
  · simp [hi, show ¬(40 + i < 32) by omega, show ¬(40 + i - 32 < 8) by omega, show 40 + i - 32 - 8 = i by omega]
  · simp [hi, show ¬(32 + i < 32) by omega]
  · simp [hi]

theorem Fields.ofWord_toWord (f : Fields) : Fields.ofWord f.toWord = f := Fields.ofWord_append _ _ _ _ _

/-- Decoding a word written field by field. -/
theorem decode_append (op f1 f2 f3 : Byte) (imm : Word) :
    decode (op ++ f1 ++ f2 ++ f3 ++ imm) = decodeFields ⟨op, f1, f2, f3, imm⟩ := by
  rw [decode, Fields.ofWord_append]

/-- Every opcode is found by its number, and by no other (30_encoding.md R96). -/
theorem Op.ofNumber_eq_some {b : Byte} {o : Op} : Op.ofNumber b = some o ↔ o.number = b := by
  constructor
  · intro h
    simpa using List.find?_some h
  · rintro rfl
    cases o <;> rfl

end Sys2Proof
end

