-- ==== Sys2Proof/Laws/Grid.lean ====
section
/-! SUPPORT. Grids, XOR sums and the rows an elimination step works on, element by element. -/

namespace Sys2Proof.Machine

/-- Element `(r, c)` of a tabulated grid. -/
theorem Grid.at_tabulate (m : Nat) (f : Matrix) {r c : Nat} (hr : r < m) (hc : c < m) :
    (Grid.tabulate m f).at r c = f r c := by
  simp [Grid.at, Grid.tabulate, hr, hc]

theorem swapRows_at (m i j : Nat) (g : Grid) {r c : Nat} (hr : r < m) (hc : c < m) :
    (swapRows m i j g).at r c = if r = i then g.at j c else if r = j then g.at i c else g.at r c :=
  Grid.at_tabulate _ _ hr hc

theorem scaleRow_at (t : Tables) (m i : Nat) (v : Byte) (g : Grid) {r c : Nat} (hr : r < m) (hc : c < m) :
    (scaleRow t m i v g).at r c = if r = i then gfMul t (g.at r c) v else g.at r c :=
  Grid.at_tabulate _ _ hr hc

theorem clearColumn_at (t : Tables) (m i : Nat) (f : Nat → Byte) (g : Grid) {r c : Nat} (hr : r < m) (hc : c < m) :
    (clearColumn t m i f g).at r c = if r = i then g.at r c else g.at r c ^^^ gfMul t (f r) (g.at i c) :=
  Grid.at_tabulate _ _ hr hc

/-- The pivot row, where there is one, lies at or below the diagonal and has a non-zero entry. -/
theorem pivotRow_some {m i j : Nat} {W : Grid} (hi : i < m) (h : pivotRow m i W = some j) :
    i ≤ j ∧ j < m ∧ W.at j i ≠ 0 := by
  unfold pivotRow at h
  split at h
  · have hmem := List.mem_of_find?_eq_some h
    have hp := List.find?_some h
    simp only [List.mem_range'_1] at hmem
    refine ⟨by omega, by omega, by simpa using hp⟩
  · obtain rfl := Option.some.inj h
    exact ⟨Nat.le_refl _, hi, by assumption⟩

/-- Where there is no pivot row, the column is zero at and below the diagonal. -/
theorem pivotRow_none {m i : Nat} {W : Grid} (h : pivotRow m i W = none) {j : Nat} (hij : i ≤ j) (hj : j < m) :
    W.at j i = 0 := by
  unfold pivotRow at h
  split at h
  · rcases Nat.eq_or_lt_of_le hij with rfl | hlt
    · assumption
    · have := List.find?_eq_none.mp h j (by simp only [List.mem_range'_1]; omega)
      simpa using this
  · cases h

theorem xorSum_succ (n : Nat) (f : Nat → Byte) : xorSum (n + 1) f = xorSum n f ^^^ f n := rfl

theorem xorSum_congr {n : Nat} {f g : Nat → Byte} (h : ∀ l, l < n → f l = g l) : xorSum n f = xorSum n g := by
  induction n with
  | zero => rfl
  | succ n ih => rw [xorSum_succ, xorSum_succ, ih fun l hl => h l (by omega), h n (by omega)]

end Sys2Proof.Machine
end

