-- ==== Sys2Proof/Laws/State.lean ====
section
/-! SUPPORT. One lemma per field per update of the state, so that no later proof unfolds a record update. -/

namespace Sys2Proof.Machine

section Respond
variable (s : State) (d : Word)
@[simp] theorem State.respond_cfg : (s.respond d).cfg = s.cfg := rfl
@[simp] theorem State.respond_k : (s.respond d).k = s.k := rfl
@[simp] theorem State.respond_r : (s.respond d).r = s.r := rfl
@[simp] theorem State.respond_key : (s.respond d).key = s.key := rfl
@[simp] theorem State.respond_size : (s.respond d).size = s.size := rfl
@[simp] theorem State.respond_shard : (s.respond d).shard = s.shard := rfl
@[simp] theorem State.respond_scr : (s.respond d).scr = s.scr := rfl
@[simp] theorem State.respond_slots : (s.respond d).slots = s.slots := rfl
@[simp] theorem State.respond_frag : (s.respond d).frag = s.frag := rfl
@[simp] theorem State.respond_pay : (s.respond d).pay = s.pay := rfl
@[simp] theorem State.respond_mat : (s.respond d).mat = s.mat := rfl
@[simp] theorem State.respond_tables : (s.respond d).tables = s.tables := rfl
@[simp] theorem State.respond_rsp : (s.respond d).rsp = some ⟨.ok, d⟩ := rfl
@[simp] theorem State.respond_inputs : (s.respond d).inputs = s.inputs := rfl
@[simp] theorem State.respond_tick : (s.respond d).tick = s.tick := rfl
@[simp] theorem State.respond_mem (sp : Space) : (s.respond d).mem sp = s.mem sp := by cases sp <;> rfl
@[simp] theorem State.respond_stored (sp : Space) (a : Nat) : (s.respond d).stored sp a = s.stored sp a := by
  simp [State.stored]
@[simp] theorem State.respond_slot (i : BitVec 8) : (s.respond d).slot i = s.slot i := rfl
@[simp] theorem State.respond_reg (x : RegName) : (s.respond d).reg x = s.reg x := by cases x <;> rfl
end Respond

section Raise
variable (s : State) (e : ErrorKind)
@[simp] theorem State.raise_cfg : (s.raise e).cfg = s.cfg := rfl
@[simp] theorem State.raise_k : (s.raise e).k = s.k := rfl
@[simp] theorem State.raise_r : (s.raise e).r = s.r := rfl
@[simp] theorem State.raise_key : (s.raise e).key = s.key := rfl
@[simp] theorem State.raise_size : (s.raise e).size = s.size := rfl
@[simp] theorem State.raise_shard : (s.raise e).shard = s.shard := rfl
@[simp] theorem State.raise_scr : (s.raise e).scr = s.scr := rfl
@[simp] theorem State.raise_slots : (s.raise e).slots = s.slots := rfl
@[simp] theorem State.raise_frag : (s.raise e).frag = s.frag := rfl
@[simp] theorem State.raise_pay : (s.raise e).pay = s.pay := rfl
@[simp] theorem State.raise_mat : (s.raise e).mat = s.mat := rfl
@[simp] theorem State.raise_tables : (s.raise e).tables = s.tables := rfl
@[simp] theorem State.raise_rsp : (s.raise e).rsp = some ⟨.error e, 0⟩ := rfl
@[simp] theorem State.raise_inputs : (s.raise e).inputs = s.inputs := rfl
@[simp] theorem State.raise_tick : (s.raise e).tick = s.tick := rfl
@[simp] theorem State.raise_mem (sp : Space) : (s.raise e).mem sp = s.mem sp := by cases sp <;> rfl
@[simp] theorem State.raise_stored (sp : Space) (a : Nat) : (s.raise e).stored sp a = s.stored sp a := by
  simp [State.stored]
@[simp] theorem State.raise_slot (i : BitVec 8) : (s.raise e).slot i = s.slot i := rfl
@[simp] theorem State.raise_reg (x : RegName) : (s.raise e).reg x = s.reg x := by cases x <;> rfl
end Raise

section SetMem
variable (s : State) (sp : Space) (m : Memory)
@[simp] theorem State.setMem_cfg : (s.setMem sp m).cfg = s.cfg := by cases sp <;> rfl
@[simp] theorem State.setMem_k : (s.setMem sp m).k = s.k := by cases sp <;> rfl
@[simp] theorem State.setMem_r : (s.setMem sp m).r = s.r := by cases sp <;> rfl
@[simp] theorem State.setMem_key : (s.setMem sp m).key = s.key := by cases sp <;> rfl
@[simp] theorem State.setMem_size : (s.setMem sp m).size = s.size := by cases sp <;> rfl
@[simp] theorem State.setMem_shard : (s.setMem sp m).shard = s.shard := by cases sp <;> rfl
@[simp] theorem State.setMem_scr : (s.setMem sp m).scr = s.scr := by cases sp <;> rfl
@[simp] theorem State.setMem_slots : (s.setMem sp m).slots = s.slots := by cases sp <;> rfl
@[simp] theorem State.setMem_tables : (s.setMem sp m).tables = s.tables := by cases sp <;> rfl
@[simp] theorem State.setMem_rsp : (s.setMem sp m).rsp = s.rsp := by cases sp <;> rfl
@[simp] theorem State.setMem_inputs : (s.setMem sp m).inputs = s.inputs := by cases sp <;> rfl
@[simp] theorem State.setMem_tick : (s.setMem sp m).tick = s.tick := by cases sp <;> rfl
@[simp] theorem State.setMem_slot (i : BitVec 8) : (s.setMem sp m).slot i = s.slot i := by cases sp <;> rfl
@[simp] theorem State.setMem_reg (x : RegName) : (s.setMem sp m).reg x = s.reg x := by cases sp <;> cases x <;> rfl
@[simp] theorem State.setMem_pay_frag (i : BitVec 8) : (s.setMem (.frag i) m).pay = s.pay := rfl
@[simp] theorem State.setMem_pay_mat (b : BitVec 2) : (s.setMem (.mat b) m).pay = s.pay := rfl
@[simp] theorem State.setMem_frag_pay : (s.setMem .pay m).frag = s.frag := rfl
@[simp] theorem State.setMem_frag_mat (b : BitVec 2) : (s.setMem (.mat b) m).frag = s.frag := rfl
@[simp] theorem State.setMem_mat_pay : (s.setMem .pay m).mat = s.mat := rfl
@[simp] theorem State.setMem_mat_frag (i : BitVec 8) : (s.setMem (.frag i) m).mat = s.mat := rfl

/-- The memories after one of them is replaced. -/
@[simp] theorem State.mem_setMem (sp' : Space) : (s.setMem sp m).mem sp' = if sp' = sp then m else s.mem sp' := by
  cases sp <;> cases sp' <;>
    simp [State.setMem, State.mem, Vector.getElem_set, BitVec.toNat_inj, eq_comm]
end SetMem

section SetReg
variable (s : State) (x : RegName) (v : Word)
@[simp] theorem State.setReg_cfg : (s.setReg x v).cfg = s.cfg := by cases x <;> rfl
@[simp] theorem State.setReg_slots : (s.setReg x v).slots = s.slots := by cases x <;> rfl
@[simp] theorem State.setReg_frag : (s.setReg x v).frag = s.frag := by cases x <;> rfl
@[simp] theorem State.setReg_pay : (s.setReg x v).pay = s.pay := by cases x <;> rfl
@[simp] theorem State.setReg_mat : (s.setReg x v).mat = s.mat := by cases x <;> rfl
@[simp] theorem State.setReg_tables : (s.setReg x v).tables = s.tables := by cases x <;> rfl
@[simp] theorem State.setReg_rsp : (s.setReg x v).rsp = s.rsp := by cases x <;> rfl
@[simp] theorem State.setReg_inputs : (s.setReg x v).inputs = s.inputs := by cases x <;> rfl
@[simp] theorem State.setReg_tick : (s.setReg x v).tick = s.tick := by cases x <;> rfl
@[simp] theorem State.setReg_mem (sp : Space) : (s.setReg x v).mem sp = s.mem sp := by cases x <;> cases sp <;> rfl
@[simp] theorem State.setReg_stored (sp : Space) (a : Nat) : (s.setReg x v).stored sp a = s.stored sp a := by
  simp [State.stored]
@[simp] theorem State.setReg_slot (i : BitVec 8) : (s.setReg x v).slot i = s.slot i := by cases x <;> rfl

/-- The registers after one of them is written. -/
@[simp] theorem State.reg_setReg (y : RegName) : (s.setReg x v).reg y = if y = x then v else s.reg y := by
  cases x <;> cases y <;> rfl
end SetReg

section SetSlot
variable (s : State) (i : BitVec 8) (h : Slot)
@[simp] theorem State.setSlot_cfg : (s.setSlot i h).cfg = s.cfg := rfl
@[simp] theorem State.setSlot_k : (s.setSlot i h).k = s.k := rfl
@[simp] theorem State.setSlot_r : (s.setSlot i h).r = s.r := rfl
@[simp] theorem State.setSlot_key : (s.setSlot i h).key = s.key := rfl
@[simp] theorem State.setSlot_size : (s.setSlot i h).size = s.size := rfl
@[simp] theorem State.setSlot_shard : (s.setSlot i h).shard = s.shard := rfl
@[simp] theorem State.setSlot_scr : (s.setSlot i h).scr = s.scr := rfl
@[simp] theorem State.setSlot_frag : (s.setSlot i h).frag = s.frag := rfl
@[simp] theorem State.setSlot_pay : (s.setSlot i h).pay = s.pay := rfl
@[simp] theorem State.setSlot_mat : (s.setSlot i h).mat = s.mat := rfl
@[simp] theorem State.setSlot_tables : (s.setSlot i h).tables = s.tables := rfl
@[simp] theorem State.setSlot_rsp : (s.setSlot i h).rsp = s.rsp := rfl
@[simp] theorem State.setSlot_inputs : (s.setSlot i h).inputs = s.inputs := rfl
@[simp] theorem State.setSlot_tick : (s.setSlot i h).tick = s.tick := rfl
@[simp] theorem State.setSlot_mem (sp : Space) : (s.setSlot i h).mem sp = s.mem sp := by cases sp <;> rfl
@[simp] theorem State.setSlot_stored (sp : Space) (a : Nat) : (s.setSlot i h).stored sp a = s.stored sp a := by
  simp [State.stored]
@[simp] theorem State.setSlot_reg (x : RegName) : (s.setSlot i h).reg x = s.reg x := by cases x <;> rfl

/-- The headers after one of them is written. -/
@[simp] theorem State.slot_setSlot (j : BitVec 8) : (s.setSlot i h).slot j = if j = i then h else s.slot j := by
  simp [State.setSlot, State.slot, Vector.getElem_set, BitVec.toNat_inj, eq_comm]
end SetSlot

section Take
variable (s : State) (rest : List HostEvent)
@[simp] theorem State.take_cfg : (s.take rest).cfg = s.cfg := rfl
@[simp] theorem State.take_k : (s.take rest).k = s.k := rfl
@[simp] theorem State.take_r : (s.take rest).r = s.r := rfl
@[simp] theorem State.take_key : (s.take rest).key = s.key := rfl
@[simp] theorem State.take_size : (s.take rest).size = s.size := rfl
@[simp] theorem State.take_shard : (s.take rest).shard = s.shard := rfl
@[simp] theorem State.take_scr : (s.take rest).scr = s.scr := rfl
@[simp] theorem State.take_slots : (s.take rest).slots = s.slots := rfl
@[simp] theorem State.take_frag : (s.take rest).frag = s.frag := rfl
@[simp] theorem State.take_pay : (s.take rest).pay = s.pay := rfl
@[simp] theorem State.take_mat : (s.take rest).mat = s.mat := rfl
@[simp] theorem State.take_tables : (s.take rest).tables = s.tables := rfl
@[simp] theorem State.take_rsp : (s.take rest).rsp = s.rsp := rfl
@[simp] theorem State.take_inputs : (s.take rest).inputs = rest := rfl
@[simp] theorem State.take_tick : (s.take rest).tick = s.tick + 1 := rfl
@[simp] theorem State.take_mem (sp : Space) : (s.take rest).mem sp = s.mem sp := by cases sp <;> rfl
@[simp] theorem State.take_stored (sp : Space) (a : Nat) : (s.take rest).stored sp a = s.stored sp a := by
  simp [State.stored]
@[simp] theorem State.take_slot (i : BitVec 8) : (s.take rest).slot i = s.slot i := rfl
@[simp] theorem State.take_reg (x : RegName) : (s.take rest).reg x = s.reg x := by cases x <;> rfl
end Take

section Reset
variable (s : State)
@[simp] theorem State.afterReset_cfg : s.afterReset.cfg = s.cfg := rfl
@[simp] theorem State.afterReset_reg (x : RegName) : s.afterReset.reg x = 0 := by cases x <;> rfl
@[simp] theorem State.afterReset_tables : s.afterReset.tables = Tables.build Config.gen := rfl
@[simp] theorem State.afterReset_rsp : s.afterReset.rsp = none := rfl
@[simp] theorem State.afterReset_inputs : s.afterReset.inputs = s.inputs := rfl
@[simp] theorem State.afterReset_tick : s.afterReset.tick = s.tick := rfl
@[simp] theorem State.afterReset_mem (sp : Space) : s.afterReset.mem sp = [] := by
  cases sp <;> simp [State.afterReset, State.reset, State.mem]
@[simp] theorem State.afterReset_stored (sp : Space) (a : Nat) : s.afterReset.stored sp a = none := by
  simp [State.stored]
@[simp] theorem State.afterReset_slot (i : BitVec 8) : s.afterReset.slot i = ⟨false, false, 0⟩ := by
  simp [State.afterReset, State.reset, State.slot]
@[simp] theorem State.reset_mem (sp : Space) : State.reset.mem sp = [] := by
  cases sp <;> simp [State.reset, State.mem]
@[simp] theorem State.reset_slot (i : BitVec 8) : State.reset.slot i = ⟨false, false, 0⟩ := by
  simp [State.reset, State.slot]
end Reset

end Sys2Proof.Machine
end

