-- ==== Sys2Proof/Laws/Ops.lean ====
section
/-! SUPPORT. What the shared operations do, said once: byte writes, tables of 256 slots, matrix layouts, and how a command
ends. -/

namespace Sys2Proof.Machine

@[simp] theorem State.stored_setMem (s : State) (sp sp' : Space) (m : Memory) (a : Nat) :
    (s.setMem sp m).stored sp' a = if sp' = sp then m.read a else s.stored sp' a := by
  simp only [State.stored, State.mem_setMem]
  split <;> rfl

/-- What is stored after one byte is written: that byte at its place, what was there everywhere else. -/
@[simp] theorem State.stored_memWrite (s : State) (sp sp' : Space) (a x : Nat) (v : Byte) :
    (s.memWrite sp a v).stored sp' x = if sp' = sp ∧ x = a then some v else s.stored sp' x := by
  simp only [State.memWrite, State.stored_setMem, Memory.read_write]
  by_cases h : sp' = sp <;> simp [h, State.stored]

/-- What is stored after consecutive bytes are written. -/
theorem State.stored_memWriteMany (s : State) (sp sp' : Space) (a x : Nat) (vs : List Byte) :
    (s.memWriteMany sp a vs).stored sp' x =
      if sp' = sp ∧ a ≤ x ∧ x < a + vs.length then vs[x - a]? else s.stored sp' x := by
  simp only [State.memWriteMany, State.stored_setMem, Memory.read_writeMany]
  by_cases h : sp' = sp <;> simp [h, State.stored]

/-- A byte that is stored is what a command reads there. -/
theorem State.memRead_of_stored {s : State} {sp : Space} {a : Nat} {v : Byte} (h : s.stored sp a = some v) :
    s.memRead sp a = v := by
  simp [State.memRead, h]

theorem allSlots_length : allSlots.length = 256 := by simp [allSlots]

theorem allSlots_getElem (i : Nat) (h : i < allSlots.length) : allSlots[i] = BitVec.ofNat 8 i := by
  simp [allSlots]

/-- Entry `i` of a table of 256 slots. -/
@[simp] theorem getElem_perSlot {α : Type} (f : BitVec 8 → α) (i : Nat) (h : i < 256) :
    (perSlot f)[i] = f (BitVec.ofNat 8 i) := by
  simp [perSlot, allSlots]

@[simp] theorem rowMajor_length (rows cols : Nat) (f : Matrix) : (rowMajor rows cols f).length = rows * cols := by
  simp [rowMajor]

/-- Byte `o` of a matrix laid out row-major. -/
theorem rowMajor_getElem? (rows cols : Nat) (f : Matrix) (o : Nat) (h : o < rows * cols) :
    (rowMajor rows cols f)[o]? = some (f (o / cols) (o % cols)) := by
  simp [rowMajor, h]

/-- Element `(i, j)` of a matrix laid out row-major is byte `i * cols + j` (20_memory.md R66). -/
theorem rowMajor_entry (rows cols : Nat) (f : Matrix) {i j : Nat} (hi : i < rows) (hj : j < cols) :
    (rowMajor rows cols f)[i * cols + j]? = some (f i j) := by
  have hc : 0 < cols := by omega
  have hlt : i * cols + j < rows * cols := by
    calc i * cols + j < i * cols + cols := by omega
      _ = (i + 1) * cols := by rw [Nat.add_mul, Nat.one_mul]
      _ ≤ rows * cols := Nat.mul_le_mul_right _ hi
  have hd : (i * cols + j) / cols = i := by
    rw [Nat.mul_comm, Nat.mul_add_div hc, Nat.div_eq_of_lt hj, Nat.add_zero]
  have hm : (i * cols + j) % cols = j := by
    rw [Nat.mul_comm, Nat.mul_add_mod, Nat.mod_eq_of_lt hj]
  rw [rowMajor_getElem? _ _ _ _ hlt, hd, hm]

/-- A command always ends in a next state. -/
theorem complete_next (s : State) (x : Except ErrorKind (State × Word)) : ∃ t, complete s x = .next t := ⟨_, rfl⟩

@[simp] theorem complete_error (s : State) (e : ErrorKind) : complete s (.error e) = .next (s.raise e) := rfl

@[simp] theorem complete_ok (s t : State) (d : Word) : complete s (.ok (t, d)) = .next (t.respond d) := rfl

/-- How a command that answered `t` ended: it raised an error and left its state but for the answer, or it responded in its
own final state. -/
theorem complete_cases {s t : State} {x : Except ErrorKind (State × Word)} (h : complete s x = .next t) :
    (∃ e, x = .error e ∧ t = s.raise e) ∨ (∃ u d, x = .ok (u, d) ∧ t = u.respond d) := by
  cases x with
  | error e => exact .inl ⟨e, rfl, by injection h with h; exact h.symm⟩
  | ok ud => exact .inr ⟨ud.1, ud.2, rfl, by injection h with h; exact h.symm⟩

end Sys2Proof.Machine
end

