-- ==== Sys2Proof/Laws/PerInstr.lean ====
section
/-! SUPPORT. One lemma per command about its encoding as syntax. -/

namespace Sys2Proof.Laws.EncodesItsRow

/-- The fields of a command carry its opcode, and every must-be-zero bit of its row is 0 (30_encoding.md R94, R96). -/
def Statement (i : Instr) : Prop :=
  Op.ofNumber (encodeFields i).op = some i.op ∧ zerosOk i.op (encodeFields i) = true

theorem bankField_isBank (b : BitVec 2) : isBank (bankField b) = true := by
  revert b; decide

theorem gfmul (a b : Byte) : Statement (.gfmul a b) := ⟨rfl, by simp [zerosOk, encodeFields, Instr.op]⟩

theorem gfdiv (a b : Byte) : Statement (.gfdiv a b) := ⟨rfl, by simp [zerosOk, encodeFields, Instr.op]⟩

/-- The unused upper bits of `imm` are those of the leading zeros. -/
theorem upper_zero {v w : Nat} (x : BitVec w) : (0#v ++ x).extractLsb' w v = 0 := by
  apply BitVec.eq_of_getLsbD_eq
  intro i hi
  simp [BitVec.getLsbD_append, hi]

theorem genmat (d : BitVec 2) (n k : Nat) : Statement (.genmat d n k) := by
  refine ⟨rfl, ?_⟩
  have h : (0#16 ++ dimField n ++ dimField k).extractLsb' 16 16 = 0 := by
    rw [BitVec.append_assoc]; exact upper_zero (v := 16) (dimField n ++ dimField k)
  simp [zerosOk, encodeFields, Instr.op, bankField_isBank, h]

theorem matmul (d a b : BitVec 2) (m p q : Nat) : Statement (.matmul d a b m p q) := by
  refine ⟨rfl, ?_⟩
  have h : (0#8 ++ dimField m ++ dimField p ++ dimField q).extractLsb' 24 8 = 0 := by
    rw [BitVec.append_assoc, BitVec.append_assoc]; exact upper_zero (v := 8) (dimField m ++ (dimField p ++ dimField q))
  simp [zerosOk, encodeFields, Instr.op, bankField_isBank, h]

theorem matinv (d src : BitVec 2) (m : Nat) : Statement (.matinv d src m) := by
  refine ⟨rfl, ?_⟩
  have h := upper_zero (v := 24) (dimField m)
  simp [zerosOk, encodeFields, Instr.op, bankField_isBank, h]

theorem scrseed (key : Word) : Statement (.scrseed key) := ⟨rfl, by simp [zerosOk, encodeFields, Instr.op]⟩

theorem scrbyte (x : Byte) : Statement (.scrbyte x) := ⟨rfl, by simp [zerosOk, encodeFields, Instr.op]⟩

theorem encode : Statement .encode := ⟨rfl, rfl⟩

theorem decode : Statement .decode := ⟨rfl, rfl⟩

theorem wrreg (reg : BitVec 8) (value : Word) : Statement (.wrreg reg value) :=
  ⟨rfl, by simp [zerosOk, encodeFields, Instr.op]⟩

theorem rdreg (reg : BitVec 8) : Statement (.rdreg reg) := ⟨rfl, by simp [zerosOk, encodeFields, Instr.op]⟩

theorem wrpay (addr : Word) (x : Byte) : Statement (.wrpay addr x) := ⟨rfl, by simp [zerosOk, encodeFields, Instr.op]⟩

theorem rdpay (addr : Word) : Statement (.rdpay addr) := ⟨rfl, by simp [zerosOk, encodeFields, Instr.op]⟩

theorem wrfrag (slot : BitVec 8) (off : Word) (x : Byte) : Statement (.wrfrag slot off x) :=
  ⟨rfl, by simp [zerosOk, encodeFields, Instr.op]⟩

theorem rdfrag (slot : BitVec 8) (off : Word) : Statement (.rdfrag slot off) :=
  ⟨rfl, by simp [zerosOk, encodeFields, Instr.op]⟩

theorem wrslot (slot : BitVec 8) (id : Byte) (valid alive : Bool) : Statement (.wrslot slot id valid alive) := by
  refine ⟨rfl, ?_⟩
  cases valid <;> cases alive <;> simp [zerosOk, encodeFields, Instr.op]

theorem rdslot (slot : BitVec 8) : Statement (.rdslot slot) := ⟨rfl, by simp [zerosOk, encodeFields, Instr.op]⟩

theorem alive (slot : BitVec 8) (v : Bool) : Statement (.alive slot v) := by
  refine ⟨rfl, ?_⟩
  cases v <;> simp [zerosOk, encodeFields, Instr.op]

theorem wrmat (bank : BitVec 2) (off : BitVec 16) (x : Byte) : Statement (.wrmat bank off x) := by
  refine ⟨rfl, ?_⟩
  have h := upper_zero (v := 16) off
  simp [zerosOk, encodeFields, Instr.op, bankField_isBank, h]

theorem rdmat (bank : BitVec 2) (off : BitVec 16) : Statement (.rdmat bank off) := by
  refine ⟨rfl, ?_⟩
  have h := upper_zero (v := 16) off
  simp [zerosOk, encodeFields, Instr.op, bankField_isBank, h]

end Sys2Proof.Laws.EncodesItsRow
end

