-- ==== Sys2Proof/Laws/Step.lean ====
section
/-! SUPPORT. What a step does, by the kind of the host's next event. -/

namespace Sys2Proof.Machine

/-- What a step can do, said once: nothing (no event left), a command, the answer to an illegal word, or a reset. -/
theorem step_cases {s : State} {o : Host.Outcome State Fault Refusal} (h : step s = o) :
    (s.inputs = [] ∧ o = .next s) ∨
    (∃ w rest i, s.inputs = .command w :: rest ∧ decode w = .ok i ∧ o = exec i (s.take rest)) ∨
    (∃ w rest why, s.inputs = .command w :: rest ∧ decode w = .error why ∧
      o = .next ((s.take rest).raise .illegalCommand)) ∨
    (∃ e rest, s.inputs = e :: rest ∧ (∀ w, e ≠ .command w) ∧ o = .next (s.take rest).afterReset) := by
  subst h
  unfold step
  split
  next hi => exact .inl ⟨hi, rfl⟩
  next w rest hi =>
    split
    next i hd => exact .inr (.inl ⟨w, rest, i, hi, hd, rfl⟩)
    next why hd => exact .inr (.inr (.inl ⟨w, rest, why, hi, hd, rfl⟩))
  next rest hi => exact .inr (.inr (.inr ⟨_, rest, hi, by simp, rfl⟩))
  next w rest hi => exact .inr (.inr (.inr ⟨_, rest, hi, by simp, rfl⟩))

end Sys2Proof.Machine
end

