-- ==== Sys2Proof/Tests/Slice0.lean ====
section
/-! SUPPORT. Tests with results from the spec's own examples and vectors (each docstring says where from), and one witness
for the hypotheses of every statement that has some. -/

namespace Sys2Proof.Tests

open Sys2Proof Sys2Proof.Machine

set_option maxRecDepth 10000
set_option Elab.async false

/-! ## Helpers -/

/-- The next state of an outcome. -/
def after : Host.Outcome State Fault Refusal → State
  | .next t => t
  | .fault _ => State.reset
  | .refused _ => State.reset

/-- The response of a command from a state. -/
def answer (i : Instr) (s : State) : Option Response := (after (exec i s)).rsp

/-- Reset, then the registers `K`, `R`, `KEY`, `SIZE`. -/
def regs (k r key size : Word) : State := { State.reset with k := k, r := r, key := key, size := size }

/-- Put bytes in the payload memory from address 0 on. -/
def withPay (s : State) (vs : List Byte) : State := s.memWriteMany .pay 0 vs

/-- Put bytes in a bank from offset 0 on. -/
def withBank (b : BitVec 2) (vs : List Byte) : State := State.reset.memWriteMany (.mat b) 0 vs

/-- Put an alive fragment in a slot. -/
def withFragment (s : State) (slot : BitVec 8) (id : Byte) (vs : List Byte) : State :=
  (s.setSlot slot ⟨true, true, id⟩).memWriteMany (.frag slot) 0 vs

/-- A small instance (95_test_vectors.md P6). -/
def small (s : State) : State := { s with cfg := ⟨8, 4⟩ }

/-! ## Well-formedness: an ill-formed term for each check -/

theorem test_genmat_n_zero : (Instr.genmat 0 0 1).wellFormed = false := by decide
theorem test_genmat_n_large : (Instr.genmat 0 257 1).wellFormed = false := by decide
theorem test_genmat_k_zero : (Instr.genmat 0 1 0).wellFormed = false := by decide
theorem test_genmat_k_large : (Instr.genmat 0 1 257).wellFormed = false := by decide
theorem test_matmul_m_bad : (Instr.matmul 0 0 0 257 1 1).wellFormed = false := by decide
theorem test_matmul_p_bad : (Instr.matmul 0 0 0 1 0 1).wellFormed = false := by decide
theorem test_matmul_q_bad : (Instr.matmul 0 0 0 1 1 257).wellFormed = false := by decide
theorem test_matinv_m_zero : (Instr.matinv 0 0 0).wellFormed = false := by decide
theorem test_matinv_m_large : (Instr.matinv 0 0 257).wellFormed = false := by decide

/-! ## Decoding: words written out from 30_encoding.md R96, a boundary value in each operand -/

theorem test_decode_gfmul : decode 0x0153CA0000000000 = .ok (.gfmul 0x53 0xCA) := by decide
theorem test_decode_gfdiv : decode 0x0201060000000000 = .ok (.gfdiv 1 6) := by decide
theorem test_decode_genmat : decode 0x100300000000FF00 = .ok (.genmat 3 256 1) := by decide
theorem test_decode_matmul : decode 0x1103010200010201 = .ok (.matmul 3 1 2 2 3 2) := by decide
theorem test_decode_matinv : decode 0x12030100000000FF = .ok (.matinv 3 1 256) := by decide
theorem test_decode_scrseed : decode 0x2000000080000001 = .ok (.scrseed 0x80000001) := by decide
theorem test_decode_scrbyte : decode 0x2148000000000000 = .ok (.scrbyte 0x48) := by decide
theorem test_decode_encode : decode 0x3000000000000000 = .ok .encode := by decide
theorem test_decode_decode : decode 0x3100000000000000 = .ok .decode := by decide
theorem test_decode_wrreg : decode 0x40FF000080000001 = .ok (.wrreg 0xFF 0x80000001) := by decide
theorem test_decode_rdreg : decode 0x4105000000000000 = .ok (.rdreg 5) := by decide
theorem test_decode_wrpay : decode 0x425A0000FFFFFFFE = .ok (.wrpay 0xFFFFFFFE 0x5A) := by decide
theorem test_decode_rdpay : decode 0x43000000FFFFFFFE = .ok (.rdpay 0xFFFFFFFE) := by decide
theorem test_decode_wrfrag : decode 0x44FF7F0000000001 = .ok (.wrfrag 255 1 0x7F) := by decide
theorem test_decode_rdfrag : decode 0x45FF000000000001 = .ok (.rdfrag 255 1) := by decide
theorem test_decode_wrslot : decode 0x4602090100000000 = .ok (.wrslot 2 9 false true) := by decide
theorem test_decode_rdslot : decode 0x47FF000000000000 = .ok (.rdslot 255) := by decide
theorem test_decode_alive : decode 0x4807010000000000 = .ok (.alive 7 true) := by decide
theorem test_decode_wrmat : decode 0x490301000000FFFF = .ok (.wrmat 3 65535 1) := by decide
theorem test_decode_rdmat : decode 0x4A0300000000FFFF = .ok (.rdmat 3 65535) := by decide

/-- 95_test_vectors.md sections 3, 4, 7, 10 and P4: words that are no command, with the step of R94 that refuses them. -/
theorem test_decode_illegal :
    decode 0x0300000000000000 = .error .reservedOpcode ∧ decode 0x4B00000000000000 = .error .reservedOpcode ∧
    decode 0x0153CA0100000000 = .error .mustBeZero ∧ decode 0x0153CA0000000001 = .error .mustBeZero ∧
    decode 0x1004000000000905 = .error .mustBeZero ∧ decode 0x1000000000010905 = .error .mustBeZero ∧
    decode 0x200100000000002A = .error .mustBeZero ∧ decode 0x3000000000000001 = .error .mustBeZero ∧
    decode 0x4602090400000000 = .error .mustBeZero ∧ decode 0x4802020000000000 = .error .mustBeZero ∧
    decode 0x4903010000010000 = .error .mustBeZero ∧ decode 0x4A04000000000000 = .error .mustBeZero := by decide

/-- The host's reading of a table row's word. -/
theorem test_decode_table_word : decodeTableWord 64 0x0201060000000000 = some (.gfdiv 1 6) := by decide

/-- An operand word written by the encoder, bank and dimensions (30_encoding.md R101). -/
theorem test_encode_matmul : encode (.matmul 3 1 2 6 6 6) = 0x1103010200050505 := by decide

/-! ## One step, one or two results per command -/

/-- 95_test_vectors.md section 3. -/
theorem test_gfmul : answer (.gfmul 0x53 0xCA) State.reset = some ⟨.ok, 0x8F⟩ := by decide +kernel
theorem test_gfmul_last_index : answer (.gfmul 0x8E 0x8E) State.reset = some ⟨.ok, 0x47⟩ := by decide +kernel
/-- 95_test_vectors.md section 3: `FF / 02`, and the quirk. -/
theorem test_gfdiv : answer (.gfdiv 0xFF 0x02) State.reset = some ⟨.ok, 0xF1⟩ := by decide +kernel
theorem test_gfdiv_zero : answer (.gfdiv 0xFF 0x00) State.reset = some ⟨.ok, 0⟩ := by decide

/-- 41_generator_matrix.md R146, its example. -/
theorem test_genmat :
    (after (exec (.genmat 0 3 2) State.reset)).mat[0] = [(0, 1), (1, 0), (2, 0), (3, 1), (4, 0x8E), (5, 1)] := by
  decide +kernel
/-- 95_test_vectors.md section 4: row 255 of `GENMAT M0, 256, 1` has `x = 0`. -/
theorem test_genmat_wrapped :
    (after (exec (.genmat 0 256 1) State.reset)).stored (.mat 0) 255 = some 1 := by decide +kernel

/-- 42_matrix_algebra.md R158, its example. -/
theorem test_matmul :
    (after (exec (.matmul 3 1 2 2 3 2)
      ((withBank 1 [1, 2, 3, 4, 5, 6]).memWriteMany (.mat 2) 0 [7, 8, 9, 10, 11, 12]))).mat[3] =
      [(0, 0x08), (1, 0x08), (2, 0x0B), (3, 0x2A)] := by decide +kernel
/-- 95_test_vectors.md section 5: all three banks the same. -/
theorem test_matmul_same_bank :
    (after (exec (.matmul 1 1 1 2 2 2) (withBank 1 [0, 1, 2, 3]))).mat[1] = [(0, 2), (1, 3), (2, 6), (3, 7)] := by
  decide +kernel

/-- 42_matrix_algebra.md R166, its example: the rows are swapped. -/
theorem test_matinv :
    (after (exec (.matinv 2 1 2) (withBank 1 [0, 1, 2, 3]))).mat[2] = [(0, 0x8F), (1, 0x8E), (2, 1), (3, 0)] := by
  decide +kernel
/-- 42_matrix_algebra.md R167: no inverse, found at pivot 1. -/
theorem test_matinv_singular :
    answer (.matinv 2 1 2) (withBank 1 [1, 2, 2, 4]) = some ⟨.error .singularMatrix, 0⟩ ∧
    (after (exec (.matinv 2 1 2) (withBank 1 [1, 2, 2, 4]))).mat[2] = [] := by decide +kernel

/-- 43_scrambler.md R185, its example. -/
theorem test_scrseed : (after (exec (.scrseed 42) State.reset)).scr = 42 := by decide
/-- 43_scrambler.md R186, its example, and 95_test_vectors.md section 7 (after reset). -/
theorem test_scrbyte :
    (after (exec (.scrbyte 0x48) { State.reset with scr := 42 })).scr = 0x4099B181 ∧
    answer (.scrbyte 0x48) { State.reset with scr := 42 } = some ⟨.ok, 0xC9⟩ := by decide
theorem test_scrbyte_after_reset : answer (.scrbyte 0xFF) State.reset = some ⟨.ok, 0xA0⟩ := by decide

/-- The second encoder vector of 95_test_vectors.md section 8, `"ABCDE"`. -/
def abcde : State := withPay (regs 3 2 7 5) [0x41, 0x42, 0x43, 0x44, 0x45]

theorem test_encode :
    (after (exec .encode abcde)).mem (.frag 2) = [(0, 0xFF), (1, 0xD1)] ∧
    (after (exec .encode abcde)).mem (.frag 3) = [(0, 0xC7), (1, 0xB3)] ∧
    (after (exec .encode abcde)).slot 4 = ⟨true, true, 4⟩ ∧ (after (exec .encode abcde)).shard = 2 := by decide +kernel
/-- 45_encoder.md R225: the sum `K + R` is exact. -/
theorem test_encode_sum_exact :
    answer .encode (regs 0xFFFFFFFF 2 0 0) = some ⟨.error .invalidParameters, 0⟩ := by decide +kernel

/-- The start state of line 15 of 95_test_vectors.md P5. -/
def p5 : State :=
  withFragment (withFragment (withFragment (withPay (regs 3 2 7 5) []) 10 4 [0x1F, 0x1C]) 11 1 [0xF9, 0x95]) 12 3
    [0xC7, 0xB3]

theorem test_decode :
    (after (exec .decode (p5.memWrite .pay 5 0xEE))).pay =
      [(0, 0x41), (1, 0x42), (2, 0x43), (3, 0x44), (4, 0x45), (5, 0xEE)] := by decide +kernel
/-- 95_test_vectors.md section 10, priority: alive ids 4, 4, 5 with `K + R = 5`. -/
theorem test_decode_range_before_inverse :
    answer .decode (withFragment (withFragment (withFragment (regs 3 2 1 3) 0 4 []) 1 4 []) 2 5 []) =
      some ⟨.error .invalidParameters, 0⟩ := by decide +kernel

/-- 47_host_access.md R262: a register the host may write, and one it may not. -/
theorem test_wrreg : (after (exec (.wrreg 3 11) State.reset)).size = 11 := by decide
theorem test_wrreg_read_only : answer (.wrreg 4 7) State.reset = some ⟨.error .illegalCommand, 0⟩ := by decide
/-- 47_host_access.md R261: the last register, and the first that does not exist. -/
theorem test_rdreg : answer (.rdreg 5) { State.reset with scr := 0x4099B181 } = some ⟨.ok, 0x4099B181⟩ := by decide
theorem test_rdreg_missing : answer (.rdreg 6) State.reset = some ⟨.error .illegalCommand, 0⟩ := by decide
/-- 95_test_vectors.md P6: the last byte of the payload memory, and the first that does not exist. -/
theorem test_wrpay : (after (exec (.wrpay 7 0xAA) (small State.reset))).pay = [(7, 0xAA)] := by decide
theorem test_wrpay_missing : answer (.wrpay 8 0xAA) (small State.reset) = some ⟨.error .illegalCommand, 0⟩ := by decide
/-- 95_test_vectors.md section 10: the last byte at the default capacity. -/
theorem test_rdpay :
    answer (.rdpay 0xFFFFFFFE) (State.reset.memWrite .pay 0xFFFFFFFE 0x5A) = some ⟨.ok, 0x5A⟩ := by decide
theorem test_rdpay_missing : answer (.rdpay 0xFFFFFFFF) State.reset = some ⟨.error .illegalCommand, 0⟩ := by decide
/-- 95_test_vectors.md section 10: the last slot; its header is untouched. -/
theorem test_wrfrag :
    (after (exec (.wrfrag 255 0 0x7F) State.reset)).mem (.frag 255) = [(0, 0x7F)] ∧
    (after (exec (.wrfrag 255 0 0x7F) State.reset)).slot 255 = ⟨false, false, 0⟩ := by decide
theorem test_rdfrag : answer (.rdfrag 6 0) (State.reset.memWrite (.frag 6) 0 0x10) = some ⟨.ok, 0x10⟩ := by decide
theorem test_rdfrag_missing : answer (.rdfrag 0 4) (small State.reset) = some ⟨.error .illegalCommand, 0⟩ := by decide
/-- 47_host_access.md R267, R269: their examples. -/
theorem test_wrslot : (after (exec (.wrslot 2 9 true true) State.reset)).slot 2 = ⟨true, true, 9⟩ := by decide
theorem test_rdslot : answer (.rdslot 9) (State.reset.setSlot 9 ⟨true, true, 9⟩) = some ⟨.ok, 0x309⟩ := by decide
theorem test_rdslot_dead : answer (.rdslot 2) (State.reset.setSlot 2 ⟨true, false, 9⟩) = some ⟨.ok, 0x209⟩ := by decide
/-- 95_test_vectors.md section 10: `KILL 2`, and `REVIVE 5` of an empty slot. -/
theorem test_alive_kill :
    (after (exec (.alive 2 false) (State.reset.setSlot 2 ⟨true, true, 9⟩))).slot 2 = ⟨true, false, 9⟩ := by decide
theorem test_alive_empty : (after (exec (.alive 5 true) State.reset)).slot 5 = ⟨false, true, 0⟩ := by decide
/-- 95_test_vectors.md section 10: the last byte of bank 3. -/
theorem test_wrmat : (after (exec (.wrmat 3 65535 1) State.reset)).mat[3] = [(65535, 1)] := by decide
theorem test_rdmat : answer (.rdmat 0 36) (State.reset.memWrite (.mat 0) 36 0x7A) = some ⟨.ok, 0x7A⟩ := by decide

/-- 95_test_vectors.md P4, lines 1 and 20: a step from reset on a word of the host. -/
theorem test_step_encode :
    (after (step (State.reset.withFetchWord 64 0x3000000000000000))).rsp = some ⟨.error .invalidParameters, 0⟩ := by
  decide
theorem test_step_illegal :
    (after (step (State.reset.withFetchWord 64 0))).rsp = some ⟨.error .illegalCommand, 0⟩ := by decide

/-! ## Host software -/

/-- 44_container_codec.md R206: the worked container. -/
def gdTest : Container where
  id := 6
  k := 6
  r := 4
  size := 11
  fingerprint := [0x47, 0x44, 0x2D, 0x54, 0x45, 0x53, 0x54]
  name := [0x61, 0x2E, 0x74, 0x78, 0x74]
  bytes := [0x10, 0x73]

def gdTestBytes : List Byte :=
  [0x06, 0x06, 0x04, 0x00, 0x00, 0x00, 0x0B, 0x47, 0x44, 0x2D, 0x54, 0x45, 0x53, 0x54, 0x20, 0x20, 0x20, 0x20, 0x20] ++
    [0x05, 0x61, 0x2E, 0x74, 0x78, 0x74, 0x10, 0x73]

theorem test_serialize : serialize gdTest = some gdTestBytes := by decide
theorem test_deserialize_short :
    deserialize (gdTestBytes.take 24) = .error .invalidContainer ∧
    deserialize (gdTestBytes.take 19) = .error .invalidContainer := by decide
theorem test_deserialize_empty_shard :
    (deserialize (gdTestBytes.take 25)).toOption.map Container.bytes = some [] := by decide
/-- 44_container_codec.md R203, R204: what the layout cannot hold. -/
theorem test_serialize_refused :
    serialize { gdTest with k := 256 } = none ∧ serialize { gdTest with r := 256 } = none ∧
    serialize { gdTest with name := List.replicate 256 0 } = none := by decide

/-- 30_encoding.md R100, R101: pseudo-commands, a register by name and by number, an operand that does not fit. -/
theorem test_assembler :
    (AsmLine.kill 7).word = some 0x4807000000000000 ∧ (AsmLine.inv 0x53).word = some 0x0201530000000000 ∧
    (AsmLine.wrreg (.name .size) 11).word = some 0x400300000000000B ∧
    (AsmLine.rdreg (.number 6)).word = some 0x4106000000000000 ∧ (AsmLine.matinv 0 0 257).word = none ∧
    (AsmLine.alive 7 2).word = none := by decide

/-! ## Witnesses: a state and operands that meet the hypotheses of each statement that has some, with boundary values -/

/-- Every command completes: an error is an answer, not a stop (60_exceptions.md R296). -/
theorem exec_after (i : Instr) (s : State) : exec i s = .next (after (exec i s)) := by cases i <;> rfl

/-- The command is about to be issued in a small instance. -/
def issued (w : Cmd) (s : State) : State := { small s with inputs := [.command w, .reset] }

theorem witness_DecodeOfEncode :
    (Instr.genmat 3 256 1).wellFormed = true ∧ (Instr.genmat 0 1 256).wellFormed = true ∧
    (Instr.matmul 3 1 2 256 1 256).wellFormed = true ∧ (Instr.matmul 0 0 0 1 256 1).wellFormed = true ∧
    (Instr.matinv 3 0 256).wellFormed = true ∧ (Instr.matinv 0 3 1).wellFormed = true := by decide

theorem witness_EncodeOfDecode : decode 0x1103010200FF00FF = .ok (.matmul 3 1 2 256 1 256) := by decide

theorem witness_WordIsCommandOrIllegal :
    (∀ o : Op, o.number ≠ (0x4B00000000000000 : Cmd).extractLsb' 56 8) ∧
    (Op.number .gfmul = (0x0153CA0100000000 : Cmd).extractLsb' 56 8 ∧
      (0x0153CA0100000000 : Cmd) &&& Op.mask .gfmul ≠ Op.pattern .gfmul) ∧
    (0x4A0300000000FFFF : Cmd) &&& Op.mask .rdmat = Op.pattern .rdmat ∧
    ((issued 0x3000000000000001 State.reset).inputs = .command 0x3000000000000001 :: [.reset] ∧
      ∀ o : Op, (0x3000000000000001 : Cmd) &&& o.mask ≠ o.pattern) := by
  refine ⟨fun o => ?_, by decide, by decide, rfl, fun o => ?_⟩ <;> cases o <;> decide

theorem witness_StepRunsDecodedCommand :
    (issued 0x4A0300000000FFFF State.reset).inputs = .command 0x4A0300000000FFFF :: [.reset] ∧
    decode 0x4A0300000000FFFF = .ok (.rdmat 3 65535) := ⟨rfl, by decide⟩

theorem witness_EveryWordGetsOneResponse :
    (issued 0x3000000000000000 State.reset).inputs = .command 0x3000000000000000 :: [.reset] := rfl

theorem witness_StepKeepsInvariant :
    (issued 0x42AA000000000007 State.reset).Inv ∧
    step (issued 0x42AA000000000007 State.reset) = .next (after (step (issued 0x42AA000000000007 State.reset))) ∧
    (after (step (issued 0x42AA000000000007 State.reset))).pay = [(7, 0xAA)] := by
  refine ⟨⟨by decide, rfl, fun sp => ?_, fun x h => nomatch h⟩, rfl, by decide⟩
  have : (issued 0x42AA000000000007 State.reset).mem sp = [] := by
    cases sp <;> simp [State.mem, issued, small, State.reset]
  rw [this]
  exact ⟨List.Pairwise.nil, fun c h => nomatch h⟩

theorem witness_ResetEventGivesResetState :
    ({ p5 with inputs := [.reset] } : State).inputs = .reset :: [] ∧
    ({ p5 with inputs := [.resetDuring 0x3100000000000000] } : State).inputs = .resetDuring 0x3100000000000000 :: [] :=
  ⟨rfl, rfl⟩

theorem witness_IdleBlockHoldsState : p5.inputs = [] := rfl

/-- Each code a command of the block can answer, for the statements about errors. -/
theorem witness_ErrorChangesNoState_ErrorsOnlyUnderTheirConditions :
    exec .encode State.reset = .next (after (exec .encode State.reset)) ∧
    answer .encode (regs 3 254 0 0) = some ⟨.error .invalidParameters, 0⟩ ∧
    answer (.genmat 0 3 5) State.reset = some ⟨.error .invalidParameters, 0⟩ ∧
    answer (.matinv 0 1 1) (withBank 1 [0]) = some ⟨.error .singularMatrix, 0⟩ ∧
    answer .encode (small (regs 1 0 0 9)) = some ⟨.error .capacityExceeded, 0⟩ ∧
    answer .encode (small (regs 1 0 0 8)) = some ⟨.error .capacityExceeded, 0⟩ ∧
    answer .decode (small (regs 2 0 0 8)) = some ⟨.error .insufficientFragments, 0⟩ ∧
    answer (.rdreg 6) State.reset = some ⟨.error .illegalCommand, 0⟩ ∧
    answer (.wrfrag 0 4 0) (small State.reset) = some ⟨.error .illegalCommand, 0⟩ := by
  exact ⟨exec_after _ _, by decide +kernel⟩

theorem witness_WhoWrites :
    exec (.matmul 1 1 1 2 2 2) (withBank 1 [0, 1, 2, 3]) =
      .next (after (exec (.matmul 1 1 1 2 2 2) (withBank 1 [0, 1, 2, 3]))) ∧
    exec .encode abcde = .next (after (exec .encode abcde)) ∧ exec .decode p5 = .next (after (exec .decode p5)) :=
  ⟨exec_after _ _, exec_after _ _, exec_after _ _⟩

theorem witness_FieldOperationsIndependentOfGenerator : isGenerator 0x06 := by
  unfold isGenerator; decide +kernel

theorem witness_GfmulAnswersProduct_GfdivAnswersQuotient : p5.tablesBuilt := rfl

theorem witness_GenmatWritesGenerator :
    (1 ≤ 256 ∧ 256 ≤ 256 ∧ 1 ≤ 255 ∧ 255 ≤ 256 ∧ 255 ≤ 256) ∧ (1 ≤ 1 ∧ 1 ≤ 256 ∧ 1 ≤ 2 ∧ 2 ≤ 256 ∧ 1 < 2) := by decide

theorem witness_CauchyEntriesAreInverses : 1 ≤ 255 ∧ 256 ≤ 256 ∧ 255 ≤ 255 ∧ 255 < 256 ∧ 254 < 255 := by decide

/-- The last three rows of `build(256, 3)` in falling order, the wrapped row first; and rows 254, 254, 255. -/
theorem witness_AnyDistinctRowsInvert :
    (1 ≤ 3 ∧ 3 ≤ 256 ∧ 256 ≤ 256) ∧ (∀ l, l < 3 → 255 - l < 256) ∧
    (∀ l, l < 3 → ∀ m, m < 3 → 255 - l = 255 - m → l = m) ∧
    (∀ l, l < 3 → 254 + l / 2 < 256) ∧ 254 + 0 / 2 = 254 + 1 / 2 := by decide

theorem witness_MatmulWritesProduct : 1 ≤ 256 ∧ 256 ≤ 256 ∧ 1 ≤ 1 ∧ 1 ≤ 256 := by decide

/-- The matrix of 42_matrix_algebra.md R166 and the inverse given there. -/
theorem witness_MatinvWritesInverse :
    (withBank 1 [0, 1, 2, 3]).tablesBuilt ∧
    productIsIdentity (withBank 1 [0, 1, 2, 3]).tables 2 (fun i j => (withBank 1 [0, 1, 2, 3]).memRead (.mat 1) (i * 2 + j))
      (Grid.at [[0x8F, 0x8E], [0x01, 0x00]]) := by
  have h : ∀ i, i < 2 → ∀ j, j < 2 →
      matMul (withBank 1 [0, 1, 2, 3]).tables 2 (fun i j => (withBank 1 [0, 1, 2, 3]).memRead (.mat 1) (i * 2 + j))
        (Grid.at [[0x8F, 0x8E], [0x01, 0x00]]) i j = identity i j := by decide +kernel
  exact ⟨rfl, fun i j hi hj => h i hi j hj⟩

theorem witness_MatinvSingularExactlyWithoutInverse :
    (matInv (Tables.build Config.gen) 1 (Grid.at [[2]])).isSome = true := by decide +kernel

/-- The `1 × 1` matrix `[00]` has no inverse (42_matrix_algebra.md R164). -/
theorem witness_MatinvWritesInverse_singular :
    (withBank 1 [0]).tablesBuilt ∧
    ¬∃ A, productIsIdentity (withBank 1 [0]).tables 1 (fun i j => (withBank 1 [0]).memRead (.mat 1) (i * 1 + j)) A := by
  refine ⟨rfl, fun ⟨A, h⟩ => ?_⟩
  have h0 := h 0 0 (by omega) (by omega)
  have hr : (withBank 1 [0]).memRead (.mat 1) (0 * 1 + 0) = 0 := by decide +kernel
  simp [matMul, xorSum, identity, gfMul] at h0
  simp_all

theorem witness_ScrseedSetsState : exec (.scrseed 42) p5 = .next (after (exec (.scrseed 42) p5)) := rfl

theorem witness_StreamedScramblerIsTransform :
    ∀ i ∈ [Instr.scrbyte 0x48, .gfmul 2 3, .scrbyte 0x45], ∀ key', i ≠ .scrseed key' := by simp

/-- `ceil(5 / 3) = 2`: the dataset of `abcde` and of `p5`. -/
theorem abcde_fits : abcde.Fits 2 where
  kPos := by decide
  nMax := by decide
  ceil := ⟨by decide, fun q h => by have h' : 5 ≤ q * 3 := h; omega⟩
  pay := by decide
  slot := by decide

theorem p5_fits : p5.Fits 2 where
  kPos := by decide
  nMax := by decide
  ceil := ⟨by decide, fun q h => by have h' : 5 ≤ q * 3 := h; omega⟩
  pay := by decide
  slot := by decide

/-- The largest `n`, and an empty payload: `S = 0`. -/
theorem witness_EncodeWritesFragments :
    abcde.Fits 2 ∧ (regs 256 0 0 0).Fits 0 ∧ (regs 1 255 0 0).Fits 0 := by
  refine ⟨abcde_fits, ⟨by decide, by decide, ⟨by decide, fun q _ => by omega⟩, by decide, by decide⟩,
    ⟨by decide, by decide, ⟨by decide, fun q _ => by omega⟩, by decide, by decide⟩⟩

/-- The two tests of the descriptor (95_test_vectors.md section 8): `K = 0`; `K + R = 257`; `SIZE = 9` with `PAY_MAX = 8`;
`S = 8` with `SHARD_MAX = 4`. -/
theorem witness_descriptorTestsFirst :
    (regs 0 7 0 0).k.toNat < 1 ∧ (regs 3 254 0 0).k.toNat + (regs 3 254 0 0).r.toNat > 256 ∧
    isCeil (small (regs 1 0 0 8)).size.toNat (small (regs 1 0 0 8)).k.toNat 8 ∧
    8 > (small (regs 1 0 0 8)).cfg.shardMax.toNat ∧
    isCeil (small (regs 1 0 0 9)).size.toNat (small (regs 1 0 0 9)).k.toNat 9 ∧
    (small (regs 1 0 0 9)).size.toNat > (small (regs 1 0 0 9)).cfg.payMax.toNat :=
  ⟨by decide, by decide, ⟨by decide, fun q h => by have h' : 8 ≤ q * 1 := h; omega⟩, by decide,
    ⟨by decide, fun q h => by have h' : 9 ≤ q * 1 := h; omega⟩, by decide⟩

theorem witness_EncodeReadsOnlyThePayload :
    ({ abcde with pay := abcde.pay.write 5 0xEE } : State) =
      { abcde with
        pay := ({ abcde with pay := abcde.pay.write 5 0xEE } : State).pay
        mat := ({ abcde with pay := abcde.pay.write 5 0xEE } : State).mat
        scr := ({ abcde with pay := abcde.pay.write 5 0xEE } : State).scr } ∧
    (∀ a, a < abcde.size.toNat →
      ({ abcde with pay := abcde.pay.write 5 0xEE } : State).stored .pay a = abcde.stored .pay a) := by
  refine ⟨rfl, fun a h => ?_⟩
  have h' : a < 5 := h
  obtain rfl | rfl | rfl | rfl | rfl : a = 0 ∨ a = 1 ∨ a = 2 ∨ a = 3 ∨ a = 4 := by omega
  all_goals decide

/-- Two alive; three alive with ids 4, 4, 5, of which one is out of range (95_test_vectors.md section 10). -/
theorem witness_DecodeTestsInOrder :
    (abcde.Fits 2 ∧ (withFragment (withFragment abcde 0 4 []) 1 9 []).aliveBelow 256 < 3) ∧
    (withFragment (withFragment (withFragment abcde 0 4 []) 1 4 []) 2 5 []).aliveBelow 256 = 3 ∧
    (withFragment (withFragment (withFragment abcde 0 4 []) 1 4 []) 2 5 []).aliveBelow 5 = 2 :=
  ⟨⟨abcde_fits, by decide +kernel⟩, by decide +kernel, by decide +kernel⟩

theorem witness_SelectionTakesSmallestIds : p5.k.toNat ≤ p5.aliveBelow 256 := by decide +kernel

/-- The inverse of 95_test_vectors.md section 6, for the rows 1, 3, 4 of `build(5, 3)` that slots 11, 12, 10 select. -/
theorem witness_DecodeWritesPayload :
    p5.tablesBuilt ∧ p5.Fits 2 ∧ p5.k.toNat ≤ p5.aliveBelow (p5.k.toNat + p5.r.toNat) ∧
    productIsIdentity p5.tables p5.k.toNat (Grid.at [[0xD3, 0x36, 0x3C], [0x01, 0x00, 0x00], [0x8F, 0x2D, 0x24]])
      (fun l j => build p5.tables p5.k.toNat (p5.slot ((selectedSlots p5).getD l 0)).id.toNat j) := by
  have h : ∀ i, i < 3 → ∀ j, j < 3 →
      matMul p5.tables 3 (Grid.at [[0xD3, 0x36, 0x3C], [0x01, 0x00, 0x00], [0x8F, 0x2D, 0x24]])
        (fun l j => build p5.tables 3 (p5.slot ((selectedSlots p5).getD l 0)).id.toNat j) i j = identity i j := by
    decide +kernel
  exact ⟨rfl, p5_fits, by decide +kernel, fun i j hi hj => h i hi j hj⟩

/-- Alive ids 4, 4, 1 (95_test_vectors.md P4, line 14). -/
def twins : State := withFragment (withFragment (withFragment (regs 3 2 1 3) 0 4 [0x11]) 1 4 [0x11]) 2 1 [0x22]

theorem witness_DuplicateSelectedIdIsSingular :
    twins.tablesBuilt ∧ twins.Fits 1 ∧ twins.k.toNat ≤ twins.aliveBelow (twins.k.toNat + twins.r.toNat) ∧
    twins.aliveBelow 4 + 2 ≤ twins.aliveBelow (4 + 1) ∧ twins.aliveBelow 4 + 2 ≤ twins.k.toNat := by
  refine ⟨rfl, ⟨by decide, by decide, ⟨by decide, fun q h => ?_⟩, by decide, by decide⟩, by decide +kernel,
    by decide +kernel, by decide +kernel⟩
  have h' : 3 ≤ q * 3 := h
  omega

/-- Both data fragments of `01 02 03` with key 0 (95_test_vectors.md section 8), in slots 9 and 4, and a parity fragment. -/
def dataOnly : State :=
  withFragment (withFragment (withFragment (regs 2 1 0 3) 9 0 [0x5E, 0x30]) 4 1 [0x5C, 0x32]) 0 2 [0x00, 0x00]

theorem dataOnly_fits : dataOnly.Fits 2 where
  kPos := by decide
  nMax := by decide
  ceil := ⟨by decide, fun q h => by have h' : 3 ≤ q * 2 := h; omega⟩
  pay := by decide
  slot := by decide

theorem witness_DecodeOfDataFragments :
    dataOnly.tablesBuilt ∧ dataOnly.Fits 2 ∧
    (∀ i, i < dataOnly.k.toNat → dataOnly.slot (if i = 0 then 9 else 4) = ⟨true, true, BitVec.ofNat 8 i⟩) ∧
    dataOnly.aliveBelow dataOnly.k.toNat = dataOnly.k.toNat := by
  refine ⟨rfl, dataOnly_fits, fun i h => ?_, by decide +kernel⟩
  have h' : i < 2 := h
  obtain rfl | rfl : i = 0 ∨ i = 1 := by omega
  all_goals decide

/-- After `ENCODE` of `ABCDE`, with data fragments 0 and 2 dead: three of five remain. -/
def killed : State :=
  let t := after (exec .encode abcde)
  { t with slots := (t.setSlot 0 ⟨true, false, 0⟩ |>.setSlot 2 ⟨true, false, 2⟩).slots }

theorem witness_DecodeRecoversEncodedPayload :
    abcde.tablesBuilt ∧ abcde.Fits 2 ∧ exec .encode abcde = .next (after (exec .encode abcde)) ∧
    killed.k = (after (exec .encode abcde)).k ∧ killed.frag = (after (exec .encode abcde)).frag ∧
    (∀ x : BitVec 8, (killed.slot x).valid = ((after (exec .encode abcde)).slot x).valid ∧
      (killed.slot x).id = ((after (exec .encode abcde)).slot x).id) ∧
    killed.k.toNat ≤ killed.aliveBelow 256 ∧ answer .decode killed = some ⟨.ok, 0⟩ :=
  ⟨rfl, abcde_fits, exec_after _ _, rfl, rfl, by decide +kernel, by decide +kernel, by decide +kernel⟩

theorem witness_WrongKeyXorsKeystreams :
    p5.Fits 2 ∧ exec .decode p5 = .next (after (exec .decode p5)) ∧ (after (exec .decode p5)).answered 0 :=
  ⟨p5_fits, exec_after _ _, by decide +kernel⟩

theorem witness_DecodeReadsOnlySelectedFragments :
    ({ p5 with scr := 9, frag := p5.frag.set 200 [(0, 0xFF)] } : State).scr ≠ p5.scr ∧
    ∀ x ∈ selectedSlots p5,
      ({ p5 with scr := 9, frag := p5.frag.set 200 [(0, 0xFF)] } : State).mem (.frag x) = p5.mem (.frag x) :=
  ⟨by decide, by decide +kernel⟩

/-- The edges of the byte spaces of a small instance and of the default one. -/
theorem witness_byte_spaces :
    (7 : Word).toNat < (small State.reset).cfg.payMax.toNat ∧ (small State.reset).cfg.payMax.toNat ≤ (8 : Word).toNat ∧
    (3 : Word).toNat < (small State.reset).cfg.shardMax.toNat ∧ (small State.reset).cfg.shardMax.toNat ≤ (4 : Word).toNat ∧
    (0xFFFFFFFE : Word).toNat < State.reset.cfg.payMax.toNat ∧ State.reset.cfg.payMax.toNat ≤ (0xFFFFFFFF : Word).toNat := by
  decide

/-- Register numbers at the edges of 47_host_access.md R261 and R262. -/
theorem witness_register_numbers : (6 : BitVec 8).toNat > 5 ∧ (4 : BitVec 8).toNat > 3 := by decide

theorem witness_WrittenByteReadsBack :
    (exec (.wrpay 7 0xAA) (small State.reset) = .next (after (exec (.wrpay 7 0xAA) (small State.reset))) ∧
      (after (exec (.wrpay 7 0xAA) (small State.reset))).answered 0 ∧
      ∀ i ∈ [Instr.rdpay 7, .wrpay 8 1, .encode].filter (fun i => i != .wrpay 8 1),
        i ≠ .decode ∧ ∀ a v, i ≠ .wrpay a v) ∧
    (exec (.wrfrag 255 3 1) (small State.reset) = .next (after (exec (.wrfrag 255 3 1) (small State.reset))) ∧
      (after (exec (.wrfrag 255 3 1) (small State.reset))).answered 0 ∧
      ∀ i ∈ [Instr.wrfrag 254 3 2, .decode], i ≠ .encode ∧ ∀ o v, i ≠ .wrfrag 255 o v) ∧
    exec (.wrmat 3 65535 1) State.reset = .next (after (exec (.wrmat 3 65535 1) State.reset)) ∧
    ∀ i ∈ [Instr.wrmat 2 65535 2, .genmat 0 1 1], (∀ n k, i ≠ .genmat 3 n k) ∧ (∀ y z m p q, i ≠ .matmul 3 y z m p q) ∧
      (∀ y m, i ≠ .matinv 3 y m) ∧ ∀ o v, i ≠ .wrmat 3 o v := by
  refine ⟨⟨rfl, by decide, ?_⟩, ⟨rfl, by decide, ?_⟩, rfl, ?_⟩
  all_goals simp

/-- `SingularMatrix` of `MATINV` and of `DECODE`, in states that have the tables. -/
theorem witness_ErrorsOnlyUnderTheirConditions_singular :
    (withBank 1 [0]).tablesBuilt ∧ answer (.matinv 0 1 1) (withBank 1 [0]) = some ⟨.error .singularMatrix, 0⟩ ∧
    twins.tablesBuilt ∧ answer .decode twins = some ⟨.error .singularMatrix, 0⟩ :=
  ⟨rfl, by decide +kernel, rfl, by decide +kernel⟩

/-- The largest values the layout holds and the least it does not. -/
theorem witness_ContainerLayout :
    (255 ≤ 255 ∧ (List.replicate 255 (0x61 : Byte)).length ≤ 255) ∧
    (256 > 255 ∧ (List.replicate 256 (0x61 : Byte)).length > 255) := by decide

/-- The shortest inputs long enough: 25 bytes with `L = 5`, and 20 bytes with `L = 0` (95_test_vectors.md section 7). -/
theorem witness_InvalidContainerExactlyWhenTooShort :
    (20 ≤ (gdTestBytes.take 25).length ∧ 20 + ((gdTestBytes.take 25).getD 19 0).toNat ≤ (gdTestBytes.take 25).length) ∧
    (20 ≤ (List.replicate 20 (0 : Byte)).length ∧
      20 + ((List.replicate 20 (0 : Byte)).getD 19 0).toNat ≤ (List.replicate 20 (0 : Byte)).length) := by decide

theorem witness_containers :
    serialize gdTest = some gdTestBytes ∧
    (deserialize gdTestBytes).toOption.map Container.name = some [0x61, 0x2E, 0x74, 0x78, 0x74] := by decide

end Sys2Proof.Tests
end

section
/-! What a command can commit, said once, and what follows for the whole machine: the frames of every command, the invariant
of every step, the state after reset. -/

namespace Sys2Proof.Machine

/-! ## The guards that keep writes inside their spaces -/

/-- Where `ENCODE` and `DECODE` find no descriptor error, the payload and every fragment fit (60_exceptions.md R294). -/
theorem State.fits_of_descriptorError_none {s : State} (h : s.descriptorError = none) :
    s.size.toNat ≤ s.cfg.payMax.toNat ∧ s.shardSize ≤ s.cfg.shardMax.toNat := by
  unfold State.descriptorError at h
  split at h
  · cases h
  · split at h
    · cases h
    next hcap => simpa [State.overCapacity] using hcap

theorem dimOk_dimOf (imm : Word) (lo : Nat) : dimOk (dimOf imm lo) := by
  have hbyte := (imm.extractLsb' lo 8).isLt
  simp only [dimOk, dimOf]
  omega

/-- Step 3 of decoding gives well-formed commands only (30_encoding.md R92). -/
theorem wellFormed_assemble (o : Op) (f : Fields) : (assemble o f).wellFormed = true := by
  cases o <;> simp [assemble, Instr.wellFormed, dimOk_dimOf]

theorem wellFormed_of_decode {w : Cmd} {i : Instr} (h : decode w = .ok i) : i.wellFormed = true := by
  unfold decode decodeFields at h
  split at h
  · cases h
  next o _ =>
    split at h
    · cases h; exact wellFormed_assemble o _
    · cases h

/-- A matrix with dimensions that have an encoding fits in a bank (20_memory.md R60). -/
theorem mul_le_bankBytes {rows cols : Nat} (hr : dimOk rows) (hc : dimOk cols) : rows * cols ≤ Config.bankBytes :=
  Nat.mul_le_mul hr.2 hc.2

/-! ## What a command commits -/

/-- `Commits s i u`: started in `s`, the command `i` can end with code `OK` in the state `u`, its answer not yet given. One
constructor per command that writes, under its guards; a command that only answers leaves `s` as it is. -/
inductive Commits (s : State) : Instr → State → Prop
  | answer (i : Instr) : Commits s i s
  | genmat (d : BitVec 2) (n k : Nat) (hkn : k ≤ n) :
      Commits s (.genmat d n k) (s.memWriteMany (.mat d) 0 (rowMajor n k (build s.tables k)))
  | matmul (d a b : BitVec 2) (m p q : Nat) :
      Commits s (.matmul d a b m p q)
        (s.memWriteMany (.mat d) 0 (rowMajor m q (matMul s.tables p (bankMatrix s a p) (bankMatrix s b q))))
  | matinv (d src : BitVec 2) (m : Nat) (C : Matrix) (hC : matInv s.tables m (bankMatrix s src m) = some C) :
      Commits s (.matinv d src m) (s.memWriteMany (.mat d) 0 (rowMajor m m C))
  | scrseed (key : Word) : Commits s (.scrseed key) (s.setReg .scr key)
  | scrbyte (x : Byte) : Commits s (.scrbyte x) (s.setReg .scr (lcg s.scr))
  | encode (hfit : s.descriptorError = none) : Commits s .encode (encodeCommit s)
  | decode (V : Matrix) (hfit : s.descriptorError = none)
      (hV : matInv s.tables s.k.toNat (submatrix s) = some V) : Commits s .decode (decodeCommit s V)
  | wrreg (reg : BitVec 8) (value : Word) (x : RegName) (hname : RegName.ofNumber reg = some x)
      (hx : x.hostWritable = true) : Commits s (.wrreg reg value) (s.setReg x value)
  | wrpay (addr : Word) (v : Byte) (ha : addr.toNat < spaceSize s.cfg .pay) :
      Commits s (.wrpay addr v) (s.memWrite .pay addr.toNat v)
  | wrfrag (x : BitVec 8) (off : Word) (v : Byte) (ha : off.toNat < spaceSize s.cfg (.frag x)) :
      Commits s (.wrfrag x off v) (s.memWrite (.frag x) off.toNat v)
  | wrslot (x : BitVec 8) (id : Byte) (valid alive : Bool) :
      Commits s (.wrslot x id valid alive) (s.setSlot x ⟨valid, alive, id⟩)
  | alive (x : BitVec 8) (v : Bool) : Commits s (.alive x v) (s.setSlot x { s.slot x with alive := v })
  | wrmat (b : BitVec 2) (off : BitVec 16) (v : Byte) (ha : off.toNat < spaceSize s.cfg (.mat b)) :
      Commits s (.wrmat b off v) (s.memWrite (.mat b) off.toNat v)

/-- How the command `i` started in `s` ends: with an error that the block can give, or with the answer to what it commits. -/
inductive Ends (s : State) (i : Instr) : Host.Outcome State Fault Refusal → Prop
  | raised (e : ErrorKind) (he : e ≠ .invalidContainer) : Ends s i (.next (s.raise e))
  | responded (u : State) (d : Word) (hu : Commits s i u) : Ends s i (.next (u.respond d))

theorem readByte_ends (s : State) (i : Instr) (sp : Space) (a : Nat) : Ends s i (readByte sp a s) := by
  unfold readByte
  split
  · exact .raised _ (by decide)
  · exact .responded s _ (.answer i)

theorem writeByte_ends {s : State} {i : Instr} {sp : Space} {a : Nat} {v : Byte}
    (hi : a < spaceSize s.cfg sp → Commits s i (s.memWrite sp a v)) : Ends s i (writeByte sp a v s) := by
  unfold writeByte
  split
  · exact .raised _ (by decide)
  next ha => exact .responded _ 0 (hi (Nat.lt_of_not_le ha))

theorem descriptorError_ne_invalidContainer {s : State} {e : ErrorKind} (h : s.descriptorError = some e) :
    e ≠ .invalidContainer := by
  rintro rfl
  unfold State.descriptorError at h
  split at h
  · cases h
  · split at h <;> cases h

theorem execDecode_ends (s : State) : Ends s .decode (execDecode s) := by
  unfold execDecode
  split
  next e he => exact .raised e (descriptorError_ne_invalidContainer he)
  next hfit =>
    split
    · exact .raised _ (by decide)
    · split
      · exact .raised _ (by decide)
      · split
        · exact .raised _ (by decide)
        next V hV => exact .responded _ 0 (.decode V hfit hV)

/-- Every command ends as `Ends` says: the one case analysis of `exec`. -/
theorem exec_ends (i : Instr) (s : State) : Ends s i (exec i s) := by
  cases i with
  | gfmul a b => exact .responded s _ (.answer _)
  | gfdiv a b => exact .responded s _ (.answer _)
  | genmat d n k =>
    show Ends s _ (execGenmat d n k s)
    unfold execGenmat
    split
    · exact .raised _ (by decide)
    next hkn => exact .responded _ 0 (.genmat d n k (Nat.le_of_not_lt hkn))
  | matmul d a b m p q => exact .responded _ 0 (.matmul d a b m p q)
  | matinv d src m =>
    show Ends s _ (execMatinv d src m s)
    unfold execMatinv
    split
    · exact .raised _ (by decide)
    next C hC => exact .responded _ 0 (.matinv d src m C hC)
  | scrseed key => exact .responded _ 0 (.scrseed key)
  | scrbyte x => exact .responded _ _ (.scrbyte x)
  | encode =>
    show Ends s _ (execEncode s)
    unfold execEncode
    split
    next e he => exact .raised e (descriptorError_ne_invalidContainer he)
    next hfit => exact .responded _ 0 (.encode hfit)
  | decode => exact execDecode_ends s
  | wrreg reg value =>
    show Ends s _ (execWrreg reg value s)
    unfold execWrreg
    split
    · exact .raised _ (by decide)
    next x hname =>
      split
      next hx => exact .responded _ 0 (.wrreg reg value x hname hx)
      · exact .raised _ (by decide)
  | rdreg reg =>
    show Ends s _ (execRdreg reg s)
    unfold execRdreg
    split
    · exact .raised _ (by decide)
    · exact .responded s _ (.answer _)
  | wrpay addr v => exact writeByte_ends (.wrpay addr v)
  | rdpay addr => exact readByte_ends s _ _ _
  | wrfrag x off v => exact writeByte_ends (.wrfrag x off v)
  | rdfrag x off => exact readByte_ends s _ _ _
  | wrslot x id valid alive => exact .responded _ 0 (.wrslot x id valid alive)
  | rdslot x => exact .responded s _ (.answer _)
  | alive x v => exact .responded _ 0 (.alive x v)
  | wrmat b off v => exact writeByte_ends (.wrmat b off v)
  | rdmat b off => exact readByte_ends s _ _ _

/-- The state a command ends in: the one before it with an error as the answer, or what it commits with its answer. -/
theorem exec_cases {i : Instr} {s t : State} (h : exec i s = .next t) :
    (∃ e, e ≠ .invalidContainer ∧ t = s.raise e) ∨ (∃ u d, Commits s i u ∧ t = u.respond d) := by
  have hends := exec_ends i s
  rw [h] at hends
  cases hends with
  | raised e he => exact .inl ⟨e, he, rfl⟩
  | responded u d hu => exact .inr ⟨u, d, hu, rfl⟩

/-- A part of the state that neither an answer nor an error touches is changed by a command only if its commit changes it. -/
theorem exec_preserves {α : Type} (part : State → α) (hraise : ∀ s e, part (State.raise s e) = part s)
    (hrespond : ∀ s d, part (State.respond s d) = part s) {i : Instr} {s t : State} (h : exec i s = .next t)
    (hcommit : ∀ u, Commits s i u → part u = part s) : part t = part s := by
  rcases exec_cases h with ⟨e, -, rfl⟩ | ⟨u, d, hu, rfl⟩
  · exact hraise s e
  · rw [hrespond, hcommit u hu]

/-! ## Who writes what -/

/-- The commands that can change a register (10_state.md R22). -/
inductive WritesReg : Instr → RegName → Prop
  | wrreg (reg : BitVec 8) (value : Word) (x : RegName) (hx : x.hostWritable = true) : WritesReg (.wrreg reg value) x
  | encode : WritesReg .encode .shard
  | decode : WritesReg .decode .shard
  | scrseed (key : Word) : WritesReg (.scrseed key) .scr
  | scrbyte (x : Byte) : WritesReg (.scrbyte x) .scr

/-- The commands that can change a slot header (10_state.md R33). -/
inductive WritesSlots : Instr → Prop
  | encode : WritesSlots .encode
  | wrslot (x : BitVec 8) (id : Byte) (valid alive : Bool) : WritesSlots (.wrslot x id valid alive)
  | alive (x : BitVec 8) (v : Bool) : WritesSlots (.alive x v)

/-- The commands that can change a memory (10_state.md R36, R38, R39). -/
inductive WritesMem : Instr → Space → Prop
  | decode : WritesMem .decode .pay
  | wrpay (addr : Word) (v : Byte) : WritesMem (.wrpay addr v) .pay
  | encode (x : BitVec 8) : WritesMem .encode (.frag x)
  | wrfrag (x : BitVec 8) (off : Word) (v : Byte) : WritesMem (.wrfrag x off v) (.frag x)
  | genmat (d : BitVec 2) (n k : Nat) : WritesMem (.genmat d n k) (.mat d)
  | matmul (d a b : BitVec 2) (m p q : Nat) : WritesMem (.matmul d a b m p q) (.mat d)
  | matinv (d src : BitVec 2) (m : Nat) : WritesMem (.matinv d src m) (.mat d)
  | wrmat (b : BitVec 2) (off : BitVec 16) (v : Byte) : WritesMem (.wrmat b off v) (.mat b)

/-! Updates that the model builds from `setMem`, `setReg` and record updates. -/

theorem State.memWriteMany_eq (s : State) (sp : Space) (a : Nat) (vs : List Byte) :
    s.memWriteMany sp a vs = s.setMem sp ((s.mem sp).writeMany a vs) := rfl

theorem State.memWrite_eq (s : State) (sp : Space) (a : Nat) (v : Byte) :
    s.memWrite sp a v = s.memWriteMany sp a [v] := rfl

theorem State.reg_setReg_of_ne (s : State) {x y : RegName} {v : Word} (h : y ≠ x) : (s.setReg x v).reg y = s.reg y := by
  rw [State.reg_setReg, if_neg h]

theorem decodeCommit_eq (s : State) (V : Matrix) :
    decodeCommit s V = (s.memWriteMany .pay 0 ((List.range s.size.toNat).map (recoveredByte s V))).setReg .shard
      (BitVec.ofNat 32 s.shardSize) := rfl

section EncodeCommit
variable (s : State)
@[simp] theorem encodeCommit_cfg : (encodeCommit s).cfg = s.cfg := rfl
@[simp] theorem encodeCommit_tables : (encodeCommit s).tables = s.tables := rfl
@[simp] theorem encodeCommit_rsp : (encodeCommit s).rsp = s.rsp := rfl
@[simp] theorem encodeCommit_reg (x : RegName) :
    (encodeCommit s).reg x = if x = .shard then BitVec.ofNat 32 s.shardSize else s.reg x := by
  cases x <;> rfl
@[simp] theorem encodeCommit_mem_pay : (encodeCommit s).mem .pay = s.mem .pay := rfl
@[simp] theorem encodeCommit_mem_mat (b : BitVec 2) : (encodeCommit s).mem (.mat b) = s.mem (.mat b) := rfl
theorem encodeCommit_mem_frag (x : BitVec 8) :
    (encodeCommit s).mem (.frag x) =
      if x.toNat < s.n then (s.mem (.frag x)).writeMany 0 ((List.range s.shardSize).map (fragmentByte s x.toNat))
      else s.mem (.frag x) := by
  simp [encodeCommit, State.mem]
end EncodeCommit

/-! The frame of a commit, one lemma per part of the state. -/

section CommitFrame
variable {s u : State} {i : Instr}

theorem Commits.cfg (hu : Commits s i u) : u.cfg = s.cfg := by
  cases hu <;> simp [State.memWriteMany_eq, State.memWrite_eq, decodeCommit_eq]

/-- No command writes the field tables (10_state.md R40). -/
theorem Commits.tables (hu : Commits s i u) : u.tables = s.tables := by
  cases hu <;> simp [State.memWriteMany_eq, State.memWrite_eq, decodeCommit_eq]

/-- The answer is not yet given when a command commits. -/
theorem Commits.rsp (hu : Commits s i u) : u.rsp = s.rsp := by
  cases hu <;> simp [State.memWriteMany_eq, State.memWrite_eq, decodeCommit_eq]

theorem Commits.reg (hu : Commits s i u) (x : RegName) (hx : ¬WritesReg i x) : u.reg x = s.reg x := by
  cases hu with
  | scrseed key => exact s.reg_setReg_of_ne fun he => hx (he ▸ .scrseed key)
  | scrbyte y => exact s.reg_setReg_of_ne fun he => hx (he ▸ .scrbyte y)
  | wrreg reg value y _ hy => exact s.reg_setReg_of_ne fun he => hx (he ▸ .wrreg reg value y hy)
  | encode =>
    have hne : x ≠ .shard := fun he => hx (he ▸ .encode)
    rw [encodeCommit_reg, if_neg hne]
  | decode V =>
    have hne : x ≠ .shard := fun he => hx (he ▸ .decode)
    rw [decodeCommit_eq, State.reg_setReg_of_ne _ hne, State.memWriteMany_eq, State.setMem_reg]
  | _ => simp [State.memWriteMany_eq, State.memWrite_eq]

theorem Commits.slots (hu : Commits s i u) (hi : ¬WritesSlots i) : u.slots = s.slots := by
  cases hu with
  | encode => exact absurd .encode hi
  | wrslot x id valid alive => exact absurd (.wrslot x id valid alive) hi
  | alive x v => exact absurd (.alive x v) hi
  | _ => simp [State.memWriteMany_eq, State.memWrite_eq, decodeCommit_eq]

/-- From `s` to `u` every memory stays as it is or gets consecutive bytes written; the latter only where the command `i` may
write, and, where `i` is well formed, inside the space. -/
def MemFrame (i : Instr) (s u : State) : Prop :=
  ∀ sp, u.mem sp = s.mem sp ∨
    WritesMem i sp ∧ ∃ a vs, u.mem sp = (s.mem sp).writeMany a vs ∧
      (i.wellFormed = true → a + vs.length ≤ spaceSize s.cfg sp)

theorem memFrame_memWriteMany {sp : Space} {a : Nat} {vs : List Byte} (hw : WritesMem i sp)
    (hfit : i.wellFormed = true → a + vs.length ≤ spaceSize s.cfg sp) : MemFrame i s (s.memWriteMany sp a vs) := by
  intro sp'
  rw [State.memWriteMany_eq, State.mem_setMem]
  split
  next he => subst he; exact .inr ⟨hw, a, vs, rfl, hfit⟩
  · exact .inl rfl

theorem memFrame_of_mem_eq (h : ∀ sp, u.mem sp = s.mem sp) : MemFrame i s u := fun sp => .inl (h sp)

/-- A bank as the destination of a matrix: it fits if a well-formed `i` has its dimensions (20_memory.md R66). -/
theorem memFrame_rowMajor {d : BitVec 2} {rows cols : Nat} {f : Matrix} (hw : WritesMem i (.mat d))
    (hdim : i.wellFormed = true → dimOk rows ∧ dimOk cols) :
    MemFrame i s (s.memWriteMany (.mat d) 0 (rowMajor rows cols f)) := by
  refine memFrame_memWriteMany hw fun hwf => ?_
  obtain ⟨hr, hc⟩ := hdim hwf
  simpa [spaceSize] using mul_le_bankBytes hr hc

theorem memFrame_encodeCommit (hfit : s.descriptorError = none) : MemFrame .encode s (encodeCommit s) := by
  obtain ⟨-, hshard⟩ := State.fits_of_descriptorError_none hfit
  intro sp
  cases sp with
  | pay => exact .inl (encodeCommit_mem_pay s)
  | mat b => exact .inl (encodeCommit_mem_mat s b)
  | frag x =>
    rw [encodeCommit_mem_frag]
    split
    · exact .inr ⟨.encode x, 0, _, rfl, fun _ => by simpa [spaceSize] using hshard⟩
    · exact .inl rfl

theorem memFrame_decodeCommit {V : Matrix} (hfit : s.descriptorError = none) :
    MemFrame .decode s (decodeCommit s V) := by
  obtain ⟨hsize, -⟩ := State.fits_of_descriptorError_none hfit
  have hwrite := memFrame_memWriteMany (s := s) (vs := (List.range s.size.toNat).map (recoveredByte s V)) (a := 0)
    .decode fun _ => by simpa [spaceSize] using hsize
  intro sp
  rw [decodeCommit_eq, State.setReg_mem]
  exact hwrite sp

theorem Commits.memFrame (hu : Commits s i u) : MemFrame i s u := by
  cases hu with
  | answer => exact memFrame_of_mem_eq fun _ => rfl
  | genmat d n k => exact memFrame_rowMajor (.genmat d n k) fun hwf => by simpa [Instr.wellFormed] using hwf
  | matmul d a b m p q =>
    refine memFrame_rowMajor (.matmul d a b m p q) fun hwf => ?_
    simp only [Instr.wellFormed, Bool.and_eq_true, decide_eq_true_eq] at hwf
    obtain ⟨⟨hm, -⟩, hq⟩ := hwf
    exact ⟨hm, hq⟩
  | matinv d src m C => exact memFrame_rowMajor (.matinv d src m) fun hwf => by simpa [Instr.wellFormed] using hwf
  | scrseed key => exact memFrame_of_mem_eq (s.setReg_mem _ _)
  | scrbyte x => exact memFrame_of_mem_eq (s.setReg_mem _ _)
  | encode hfit => exact memFrame_encodeCommit hfit
  | decode V hfit => exact memFrame_decodeCommit hfit
  | wrreg reg value x => exact memFrame_of_mem_eq (s.setReg_mem _ _)
  | wrpay addr v ha => exact memFrame_memWriteMany (vs := [v]) (.wrpay addr v) fun _ => ha
  | wrfrag x off v ha => exact memFrame_memWriteMany (vs := [v]) (.wrfrag x off v) fun _ => ha
  | wrslot x id valid alive => exact memFrame_of_mem_eq (s.setSlot_mem _ _)
  | alive x v => exact memFrame_of_mem_eq (s.setSlot_mem _ _)
  | wrmat b off v ha => exact memFrame_memWriteMany (vs := [v]) (.wrmat b off v) fun _ => ha

theorem Commits.mem (hu : Commits s i u) (sp : Space) (hsp : ¬WritesMem i sp) : u.mem sp = s.mem sp :=
  (hu.memFrame sp).resolve_right fun hw => hsp hw.1

end CommitFrame

/-! The frame of a command. -/

section ExecFrame
variable {s t : State} {i : Instr}

theorem exec_cfg (h : exec i s = .next t) : t.cfg = s.cfg :=
  exec_preserves State.cfg State.raise_cfg State.respond_cfg h fun _ hu => hu.cfg

theorem exec_tables (h : exec i s = .next t) : t.tables = s.tables :=
  exec_preserves State.tables State.raise_tables State.respond_tables h fun _ hu => hu.tables

theorem exec_reg (h : exec i s = .next t) (x : RegName) (hx : ¬WritesReg i x) : t.reg x = s.reg x :=
  exec_preserves (·.reg x) (·.raise_reg · x) (·.respond_reg · x) h fun _ hu => hu.reg x hx

theorem exec_slots (h : exec i s = .next t) (hi : ¬WritesSlots i) : t.slots = s.slots :=
  exec_preserves State.slots State.raise_slots State.respond_slots h fun _ hu => hu.slots hi

theorem exec_mem (h : exec i s = .next t) (sp : Space) (hsp : ¬WritesMem i sp) : t.mem sp = s.mem sp :=
  exec_preserves (·.mem sp) (·.raise_mem · sp) (·.respond_mem · sp) h fun _ hu => hu.mem sp hsp

end ExecFrame

/-- Fragment memory is its 256 slots. -/
theorem State.frag_ext {s t : State} (h : ∀ x, t.mem (.frag x) = s.mem (.frag x)) : t.frag = s.frag := by
  refine Vector.ext fun n hn => ?_
  simpa [State.mem, Nat.mod_eq_of_lt hn] using h (BitVec.ofNat 8 n)

/-! ## The invariant -/

section Invariant
variable {s u : State} {i : Instr}

/-- A state with no byte stored and no response meets the invariant, if its capacities and tables do. -/
theorem State.inv_of_blank (hcfg : s.cfg.legal) (htab : s.tablesBuilt) (hmem : ∀ sp, s.mem sp = [])
    (hrsp : s.rsp = none) : s.Inv where
  cfgLegal := hcfg
  tables := htab
  memory sp := by simp [hmem sp, Memory.wf, Memory.within]
  response x hx := by simp [hrsp] at hx

theorem State.Inv.take (hs : s.Inv) (rest : List HostEvent) : (s.take rest).Inv where
  cfgLegal := hs.cfgLegal
  tables := hs.tables
  memory sp := by simpa using hs.memory sp
  response := hs.response

theorem State.Inv.afterReset (hs : s.Inv) : s.afterReset.Inv :=
  State.inv_of_blank hs.cfgLegal rfl s.afterReset_mem rfl

theorem State.Inv.raise (hs : s.Inv) {e : ErrorKind} (he : e ≠ .invalidContainer) : (s.raise e).Inv where
  cfgLegal := hs.cfgLegal
  tables := hs.tables
  memory sp := by simpa using hs.memory sp
  response x hx := by
    obtain rfl : _ = x := Option.some.inj hx
    exact ⟨fun h => he (Code.error.inj h), fun _ => rfl⟩

theorem State.Inv.respond (hs : s.Inv) (d : Word) : (s.respond d).Inv where
  cfgLegal := hs.cfgLegal
  tables := hs.tables
  memory sp := by simpa using hs.memory sp
  response x hx := by
    obtain rfl : _ = x := Option.some.inj hx
    exact ⟨Code.noConfusion, fun h => absurd rfl h⟩

/-- Writes inside their spaces keep every memory canonical and within bounds (20_memory.md R60, R69). -/
theorem MemFrame.memoryGood (hf : MemFrame i s u) (hcfg : u.cfg = s.cfg) (hwf : i.wellFormed = true)
    (hs : s.memoryGood) : u.memoryGood := by
  intro sp
  obtain ⟨hcanon, hwithin⟩ := hs sp
  rw [hcfg]
  rcases hf sp with hsame | ⟨-, a, vs, hwrite, hfit⟩
  · rw [hsame]; exact ⟨hcanon, hwithin⟩
  · rw [hwrite]; exact ⟨Memory.wf_writeMany vs hcanon a, Memory.within_writeMany vs hwithin (hfit hwf)⟩

theorem Commits.inv (hu : Commits s i u) (hwf : i.wellFormed = true) (hs : s.Inv) : u.Inv where
  cfgLegal := hu.cfg ▸ hs.cfgLegal
  tables := hu.tables.trans hs.tables
  memory := hu.memFrame.memoryGood hu.cfg hwf hs.memory
  response x hx := hs.response x (hu.rsp ▸ hx)

/-- A well-formed command keeps the invariant. -/
theorem exec_inv {t : State} (h : exec i s = .next t) (hwf : i.wellFormed = true) (hs : s.Inv) : t.Inv := by
  rcases exec_cases h with ⟨e, he, rfl⟩ | ⟨u, d, hu, rfl⟩
  · exact hs.raise he
  · exact (hu.inv hwf hs).respond d

end Invariant

/-! ## A step of a command word -/

theorem step_command {s : State} {w : Cmd} {rest : List HostEvent} {i : Instr} (hin : s.inputs = .command w :: rest)
    (hd : decode w = .ok i) : step s = exec i (s.take rest) := by
  unfold step
  simp only [hin, hd]

end Sys2Proof.Machine

namespace Sys2Proof.Proofs

open Sys2Proof.Machine

/-- Settles O10: a command word is decoded to a well-formed command, whose writes the guards of `Commits` keep inside their
spaces; every other step answers an illegal word, resets or does nothing. -/
theorem stepKeepsInvariant : Obligations.StepKeepsInvariant := by
  intro s t hs h
  rcases step_cases h with ⟨-, ho⟩ | ⟨w, rest, i, -, hd, ho⟩ | ⟨w, rest, why, -, -, ho⟩ | ⟨e, rest, -, -, ho⟩
  · cases ho; exact hs
  · exact exec_inv ho.symm (wellFormed_of_decode hd) (hs.take rest)
  · cases ho; exact (hs.take rest).raise (by decide)
  · cases ho; exact (hs.take rest).afterReset

/-- Settles O16, by the frame of the registers: a register changes only under a command that `WritesReg` lists for it. -/
theorem whoWritesRegisters : Obligations.WhoWritesRegisters := by
  intro i s t h
  refine ⟨fun hwr => ?_, fun henc hdec => ?_, fun hseed hbyte => ?_⟩
  · have hreg (x : RegName) (hx : x.hostWritable = true) : t.reg x = s.reg x := by
      refine exec_reg h x fun hw => ?_
      cases hw with
      | wrreg reg v => exact hwr reg v rfl
      | _ => cases hx
    exact ⟨hreg .k rfl, hreg .r rfl, hreg .key rfl, hreg .size rfl⟩
  · refine exec_reg h .shard fun hw => ?_
    cases hw with
    | wrreg reg v _ hx => cases hx
    | encode => exact henc rfl
    | decode => exact hdec rfl
  · refine exec_reg h .scr fun hw => ?_
    cases hw with
    | wrreg reg v _ hx => cases hx
    | scrseed key => exact hseed key rfl
    | scrbyte x => exact hbyte x rfl

/-- Settles O17, by the frames of the memories (slot by slot) and of the headers. -/
theorem whoWritesFragmentStore : Obligations.WhoWritesFragmentStore := by
  intro i s t h
  refine ⟨fun henc hwr => State.frag_ext fun x => exec_mem h (.frag x) fun hw => ?_,
    fun henc hslot halive => exec_slots h fun hw => ?_⟩
  · cases hw with
    | encode => exact henc rfl
    | wrfrag x off v => exact hwr x off v rfl
  · cases hw with
    | encode => exact henc rfl
    | wrslot x id valid alive => exact hslot x id valid alive rfl
    | alive x v => exact halive x v rfl

/-- Settles O18, by the frame of the memories and of the fields that no commit touches. -/
theorem whoWritesMemories : Obligations.WhoWritesMemories := by
  intro i s t h
  refine ⟨fun hdec hwr => exec_mem h .pay fun hw => ?_,
    fun b hgen hmul hinv hwr => exec_mem h (.mat b) fun hw => ?_, exec_tables h, exec_cfg h⟩
  · cases hw with
    | decode => exact hdec rfl
    | wrpay a v => exact hwr a v rfl
  · cases hw with
    | genmat _ n k => exact hgen n k rfl
    | matmul _ x y m p q => exact hmul x y m p q rfl
    | matinv _ x m => exact hinv x m rfl
    | wrmat _ o v => exact hwr o v rfl

/-- Settles O6, by `step_command`; a word issued by `withFetchWord` stands first in the host's list. -/
theorem stepRunsDecodedCommand : Obligations.StepRunsDecodedCommand := by
  refine ⟨fun s w rest i hin hd => step_command hin hd, fun s w i hd => ?_⟩
  have hword : BitVec.ofNat 64 (w.toNat % 2 ^ 64) = w := by
    rw [Nat.mod_eq_of_lt w.isLt, BitVec.ofNat_toNat, BitVec.setWidth_eq]
  have hin : (s.withFetchWord 64 w.toNat).inputs = .command w :: s.inputs := by
    rw [State.withFetchWord, hword]
  exact step_command hin hd

/-- Settles O9: after reset no byte is stored and no response stands. -/
theorem resetMeetsInvariant : Obligations.ResetMeetsInvariant :=
  State.inv_of_blank (by decide) rfl State.reset_mem rfl

/-- Settles O11: registers by name, headers and memories by the laws of `State.reset`. -/
theorem resetValues : Obligations.ResetValues := by
  refine ⟨fun x => ?_, State.reset_slot, fun sp a => ?_, rfl⟩
  · cases x <;> rfl
  · rw [State.stored, State.reset_mem, Memory.read_nil]

end Sys2Proof.Proofs
end

section
/-! A byte that is stored stays stored under commands that do not write its memory, and reads back as often as it is read. -/

namespace Sys2Proof.Machine

/-! ## Commands one after another -/

theorem exec_next (i : Instr) (s : State) : ∃ t, exec i s = .next t := by
  have hends := exec_ends i s
  generalize exec i s = o at hends ⊢
  cases hends with
  | raised e => exact ⟨_, rfl⟩
  | responded u d => exact ⟨_, rfl⟩

theorem executeAll_cons_fst {i : Instr} {is : List Instr} {s t : State} (h : exec i s = .next t) :
    (executeAll (i :: is) s).1 = (executeAll is t).1 := by
  simp only [executeAll, h]

/-- What every command of a list keeps, the whole list keeps. -/
theorem executeAll_keeps {P : State → Prop} {cs : List Instr}
    (hkeep : ∀ i ∈ cs, ∀ s t, exec i s = .next t → P s → P t) {s : State} (hs : P s) : P (executeAll cs s).1 := by
  induction cs generalizing s with
  | nil => exact hs
  | cons i is ih =>
    obtain ⟨hi, his⟩ := List.forall_mem_cons.mp hkeep
    obtain ⟨t, ht⟩ := exec_next i s
    rw [executeAll_cons_fst ht]
    exact ih his (hi s t ht hs)

/-! ## A byte that its space holds -/

/-- The location exists (20_memory.md R60), and `x` is the byte last written there. -/
def State.Holds (s : State) (sp : Space) (a : Nat) (x : Byte) : Prop :=
  a < spaceSize s.cfg sp ∧ s.stored sp a = some x

section Holds
variable {s t : State} {sp : Space} {a : Nat} {x : Byte}

@[simp] theorem State.memWrite_cfg : (s.memWrite sp a x).cfg = s.cfg := s.setMem_cfg _ _

theorem readByte_of_lt (h : a < spaceSize s.cfg sp) :
    readByte sp a s = .next (s.respond ((s.memRead sp a).setWidth 32)) := by
  rw [readByte, if_neg (Nat.not_le_of_lt h), complete_ok]

theorem writeByte_of_lt (h : a < spaceSize s.cfg sp) :
    writeByte sp a x s = .next ((s.memWrite sp a x).respond 0) := by
  rw [writeByte, if_neg (Nat.not_le_of_lt h), complete_ok]

theorem writeByte_of_ge (h : spaceSize s.cfg sp ≤ a) :
    writeByte sp a x s = .next (s.raise .illegalCommand) := by
  rw [writeByte, if_pos h, complete_error]

/-- A write answers `OK` only at a location that exists (20_memory.md R69). -/
theorem lt_spaceSize_of_writeByte_answered {d : Word} (h : writeByte sp a x s = .next t) (ht : t.answered d) :
    a < spaceSize s.cfg sp := by
  refine Nat.lt_of_not_le fun hge => ?_
  rw [writeByte_of_ge hge] at h
  cases h
  cases ht

theorem holds_of_writeByte (ha : a < spaceSize s.cfg sp) (h : writeByte sp a x s = .next t) : t.Holds sp a x := by
  rw [writeByte_of_lt ha] at h
  cases h
  exact ⟨by simpa using ha, by simp⟩

/-- A command that does not write the memory keeps the byte. -/
theorem State.Holds.exec {i : Instr} (hs : s.Holds sp a x) (hi : ¬WritesMem i sp) (h : exec i s = .next t) :
    t.Holds sp a x := by
  obtain ⟨ha, hx⟩ := hs
  refine ⟨by rwa [exec_cfg h], ?_⟩
  rwa [State.stored, exec_mem h sp hi]

theorem State.Holds.executeAll {cs : List Instr} (hs : s.Holds sp a x) (hcs : ∀ i ∈ cs, ¬WritesMem i sp) :
    (executeAll cs s).1.Holds sp a x :=
  executeAll_keeps (P := fun s => s.Holds sp a x) (fun i hi _ _ h hs => hs.exec (hcs i hi) h) hs

/-- The read of a byte that is held answers it. -/
theorem State.Holds.readByte_eq (hs : s.Holds sp a x) : readByte sp a s = .next (s.respond (x.setWidth 32)) := by
  obtain ⟨ha, hx⟩ := hs
  rw [readByte_of_lt ha, State.memRead_of_stored hx]

theorem State.Holds.respond (hs : s.Holds sp a x) (d : Word) : (s.respond d).Holds sp a x := by
  obtain ⟨ha, hx⟩ := hs
  exact ⟨by simpa using ha, by simpa using hx⟩

/-- A read repeated gives the same answer and changes nothing more (20_memory.md R61, R73). -/
theorem State.Holds.readByte_twice (hs : s.Holds sp a x) :
    ∃ u, readByte sp a s = .next u ∧ u.answered (x.setWidth 32) ∧ readByte sp a u = .next u :=
  ⟨_, hs.readByte_eq, rfl, (hs.respond _).readByte_eq⟩

/-- After a write to a location that exists and commands that do not write its memory, the byte reads back, also twice. -/
theorem readByte_after_writeByte {cs : List Instr} (ha : a < spaceSize s.cfg sp) (h : writeByte sp a x s = .next t)
    (hcs : ∀ i ∈ cs, ¬WritesMem i sp) :
    ∃ u, readByte sp a (executeAll cs t).1 = .next u ∧ u.answered (x.setWidth 32) ∧ readByte sp a u = .next u :=
  ((holds_of_writeByte ha h).executeAll hcs).readByte_twice

end Holds

end Sys2Proof.Machine

namespace Sys2Proof.Proofs

open Sys2Proof.Machine

/-- Settles O56, by the frame of the memories: a held byte stays held under every command that `WritesMem` does not list for
its space. Every offset of a bank that can be encoded exists, so a write there needs no premise about its answer. -/
theorem writtenByteReadsBack : Obligations.WrittenByteReadsBack := by
  refine ⟨fun s t addr x cs h ht hcs => ?_, fun s t slot off x cs h ht hcs => ?_, fun s t b off x cs h hcs => ?_⟩
  · refine readByte_after_writeByte (lt_spaceSize_of_writeByte_answered h ht) h fun i hi hw => ?_
    obtain ⟨hdec, hwr⟩ := hcs i hi
    cases hw with
    | decode => exact hdec rfl
    | wrpay a v => exact hwr a v rfl
  · refine readByte_after_writeByte (lt_spaceSize_of_writeByte_answered h ht) h fun i hi hw => ?_
    obtain ⟨henc, hwr⟩ := hcs i hi
    cases hw with
    | encode => exact henc rfl
    | wrfrag _ o v => exact hwr o v rfl
  · refine readByte_after_writeByte off.isLt h fun i hi hw => ?_
    obtain ⟨hgen, hmul, hinv, hwr⟩ := hcs i hi
    cases hw with
    | genmat _ n k => exact hgen n k rfl
    | matmul _ y z m p q => exact hmul y z m p q rfl
    | matinv _ y m => exact hinv y m rfl
    | wrmat _ o v => exact hwr o v rfl

end Sys2Proof.Proofs
end

section
/-! The encoding: a command word is its five fields, the encoder and the decoder undo each other on them, the masks of the
opcode map say what the decoder tests, and every word gets one response. -/

namespace Sys2Proof

/-! ## A field made of unused upper bits and an operand below them -/

section UpperBits
variable {v w : Nat} {x : BitVec (v + w)}

/-- The upper bits are all 0 exactly when the mask that selects them gives 0. -/
theorem extractLsb'_upper_eq_zero_iff :
    x.extractLsb' w v = 0 ↔ x &&& (BitVec.allOnes v ++ 0#w) = 0 := by
  have hmask : x &&& (BitVec.allOnes v ++ 0#w) = x.extractLsb' w v ++ 0#w := by
    conv_lhs => rw [← BitVec.extractLsb'_append_extractLsb' (x := x)]
    rw [BitVec.and_append, BitVec.and_allOnes, BitVec.and_zero]
  have hzero : (0 : BitVec (v + w)) = 0#v ++ 0#w := BitVec.zero_append_zero.symm
  rw [hmask, hzero, BitVec.append_left_inj]
  rfl

/-- With upper bits 0 a field is its operand, zero-extended. -/
theorem zero_append_extractLsb' (h : x.extractLsb' w v = 0) : 0#v ++ x.extractLsb' 0 w = x := by
  conv_rhs => rw [← BitVec.extractLsb'_append_extractLsb' (x := x), h]
  rfl

end UpperBits

theorem isBank_iff {f : Byte} : isBank f = true ↔ f.extractLsb' 2 6 = 0 := beq_iff_eq

@[simp] theorem bankOf_bankField (b : BitVec 2) : bankOf (bankField b) = b := BitVec.extractLsb'_append_eq_right

theorem bankField_bankOf {f : Byte} (h : isBank f = true) : bankField (bankOf f) = f :=
  zero_append_extractLsb' (v := 6) (w := 2) (isBank_iff.mp h)

/-- A dimension reads back from the byte that holds its value minus one (30_encoding.md R92). -/
theorem dimOf_eq {imm : Word} {lo n : Nat} (hn : dimOk n) (h : imm.extractLsb' lo 8 = dimField n) : dimOf imm lo = n := by
  obtain ⟨h1, h256⟩ := hn
  rw [dimOf, h, dimField, BitVec.toNat_ofNat, Nat.mod_eq_of_lt (by omega)]
  omega

@[simp] theorem dimField_dimOf (imm : Word) (lo : Nat) : dimField (dimOf imm lo) = imm.extractLsb' lo 8 := by
  rw [dimField, dimOf, Nat.add_sub_cancel, BitVec.ofNat_toNat, BitVec.setWidth_eq]

/-- With its upper half 0, `imm` is the two bytes below. -/
theorem zero_append_two_bytes {imm : Word} (h : imm.extractLsb' 16 16 = 0) :
    0#16 ++ imm.extractLsb' 8 8 ++ imm.extractLsb' 0 8 = imm := by
  have h0 : 0#16 = imm.extractLsb' 16 16 := h.symm
  rw [h0, BitVec.extractLsb'_append_extractLsb'_eq_extractLsb', BitVec.extractLsb'_append_extractLsb'_eq_extractLsb']
  · exact BitVec.extractLsb'_eq_self
  all_goals rfl

/-- With its upper byte 0, `imm` is the three bytes below. -/
theorem zero_append_three_bytes {imm : Word} (h : imm.extractLsb' 24 8 = 0) :
    0#8 ++ imm.extractLsb' 16 8 ++ imm.extractLsb' 8 8 ++ imm.extractLsb' 0 8 = imm := by
  have h0 : 0#8 = imm.extractLsb' 24 8 := h.symm
  rw [h0, BitVec.extractLsb'_append_extractLsb'_eq_extractLsb', BitVec.extractLsb'_append_extractLsb'_eq_extractLsb',
    BitVec.extractLsb'_append_extractLsb'_eq_extractLsb']
  · exact BitVec.extractLsb'_eq_self
  all_goals rfl

/-- The operand with one other below it. -/
theorem extractLsb'_second {u v w : Nat} (x : BitVec u) (y : BitVec v) (z : BitVec w) :
    (x ++ y ++ z).extractLsb' w v = y := by
  rw [BitVec.extractLsb'_append_eq_of_le le_rfl, Nat.sub_self, BitVec.extractLsb'_append_eq_right]

/-- The operand with two others below it. -/
theorem extractLsb'_third {u v w l : Nat} (x : BitVec u) (y : BitVec v) (z : BitVec w) (t : BitVec l) :
    (x ++ y ++ z ++ t).extractLsb' (w + l) v = y := by
  rw [BitVec.extractLsb'_append_eq_of_le (Nat.le_add_left l w), Nat.add_sub_cancel, extractLsb'_second]

/-- With bits 7 to 2 zero a byte is its two flag bits (30_encoding.md R96, `WRSLOT`). -/
theorem flags_of_upper_zero : ∀ {f : Byte}, f.extractLsb' 2 6 = 0 →
    0#6 ++ BitVec.ofBool (f.getLsbD 1) ++ BitVec.ofBool (f.getLsbD 0) = f := by decide

/-- The same with one flag (30_encoding.md R96, `ALIVE`). -/
theorem flag_of_upper_zero : ∀ {f : Byte}, f.extractLsb' 1 7 = 0 → 0#7 ++ BitVec.ofBool (f.getLsbD 0) = f := by decide

theorem getLsbD_flags : ∀ v a : Bool, (0#6 ++ BitVec.ofBool v ++ BitVec.ofBool a).getLsbD 1 = v ∧
    (0#6 ++ BitVec.ofBool v ++ BitVec.ofBool a).getLsbD 0 = a := by decide

theorem getLsbD_flag : ∀ v : Bool, (0#7 ++ BitVec.ofBool v).getLsbD 0 = v := by decide

/-! ## Words and their fields -/

/-- No bit of a word stands outside its fields (30_encoding.md R90). -/
theorem Fields.toWord_ofWord (w : Cmd) : (Fields.ofWord w).toWord = w := by
  simp only [Fields.toWord, Fields.ofWord]
  rw [BitVec.extractLsb'_append_extractLsb'_eq_extractLsb', BitVec.extractLsb'_append_extractLsb'_eq_extractLsb',
    BitVec.extractLsb'_append_extractLsb'_eq_extractLsb', BitVec.extractLsb'_append_extractLsb'_eq_extractLsb']
  · exact BitVec.extractLsb'_eq_self
  all_goals rfl

theorem Fields.ofWord_inj {w u : Cmd} : Fields.ofWord w = Fields.ofWord u ↔ w = u :=
  ⟨fun h => by rw [← Fields.toWord_ofWord w, h, Fields.toWord_ofWord], fun h => h ▸ rfl⟩

/-! ## The encoder and step 3 of decoding undo each other on fields -/

/-- Assembling the fields of a well-formed command gives it back. -/
theorem assemble_encodeFields {i : Instr} (hi : i.wellFormed = true) : assemble i.op (encodeFields i) = i := by
  cases i with
  | genmat d n k =>
    simp only [Instr.wellFormed, Bool.and_eq_true, decide_eq_true_eq] at hi
    obtain ⟨hn, hk⟩ := hi
    simp only [assemble, encodeFields, Instr.op, bankOf_bankField, Instr.genmat.injEq, true_and]
    exact ⟨dimOf_eq hn (extractLsb'_second ..), dimOf_eq hk BitVec.extractLsb'_append_eq_right⟩
  | matmul d a b m p q =>
    simp only [Instr.wellFormed, Bool.and_eq_true, decide_eq_true_eq] at hi
    obtain ⟨⟨hm, hp⟩, hq⟩ := hi
    simp only [assemble, encodeFields, Instr.op, bankOf_bankField, Instr.matmul.injEq, true_and]
    exact ⟨dimOf_eq hm (extractLsb'_third ..), dimOf_eq hp (extractLsb'_second ..),
      dimOf_eq hq BitVec.extractLsb'_append_eq_right⟩
  | matinv d src m =>
    simp only [Instr.wellFormed, decide_eq_true_eq] at hi
    simp only [assemble, encodeFields, Instr.op, bankOf_bankField, Instr.matinv.injEq, true_and]
    exact dimOf_eq hi BitVec.extractLsb'_append_eq_right
  | wrslot slot id valid alive => simp only [assemble, encodeFields, Instr.op, getLsbD_flags]
  | alive slot v => simp only [assemble, encodeFields, Instr.op, getLsbD_flag]
  | wrmat b off x =>
    simp only [assemble, encodeFields, Instr.op, bankOf_bankField, Instr.wrmat.injEq, true_and, and_true]
    exact BitVec.extractLsb'_append_eq_right
  | rdmat b off =>
    simp only [assemble, encodeFields, Instr.op, bankOf_bankField, Instr.rdmat.injEq, true_and]
    exact BitVec.extractLsb'_append_eq_right
  | _ => rfl

/-- The fields of an assembled command are the fields it was assembled from: its opcode, its operands and, by step 2 of
decoding, zeros (30_encoding.md R94). -/
theorem encodeFields_assemble {o : Op} {f : Fields} (hop : o.number = f.op) (hz : zerosOk o f = true) :
    encodeFields (assemble o f) = f := by
  -- The row's zeros settle every field but those that hold a bank, dimensions, flags or an offset.
  obtain ⟨op, f1, f2, f3, imm⟩ := f
  obtain rfl : o.number = op := hop
  cases o <;> simp only [zerosOk, Bool.and_eq_true, beq_iff_eq] at hz <;>
    simp only [assemble, encodeFields, Op.number, dimField_dimOf, Fields.mk.injEq, hz, true_and, and_true]
  case genmat =>
    obtain ⟨⟨⟨h1, -⟩, -⟩, himm⟩ := hz
    exact ⟨bankField_bankOf h1, zero_append_two_bytes himm⟩
  case matmul =>
    obtain ⟨⟨⟨h1, h2⟩, h3⟩, himm⟩ := hz
    exact ⟨bankField_bankOf h1, bankField_bankOf h2, bankField_bankOf h3, zero_append_three_bytes himm⟩
  case matinv =>
    obtain ⟨⟨⟨h1, h2⟩, -⟩, himm⟩ := hz
    exact ⟨bankField_bankOf h1, bankField_bankOf h2, zero_append_extractLsb' (v := 24) (w := 8) himm⟩
  case wrslot =>
    obtain ⟨hflags, -⟩ := hz
    exact flags_of_upper_zero hflags
  case alive =>
    obtain ⟨⟨hflag, -⟩, -⟩ := hz
    exact flag_of_upper_zero hflag
  case wrmat =>
    obtain ⟨⟨h1, -⟩, himm⟩ := hz
    exact ⟨bankField_bankOf h1, zero_append_extractLsb' (v := 16) (w := 16) himm⟩
  case rdmat =>
    obtain ⟨⟨⟨h1, -⟩, -⟩, himm⟩ := hz
    exact ⟨bankField_bankOf h1, zero_append_extractLsb' (v := 16) (w := 16) himm⟩

/-! ## The masks of the opcode map -/

theorem Fields.ofWord_and (w m : Cmd) :
    Fields.ofWord (w &&& m) =
      ⟨(Fields.ofWord w).op &&& (Fields.ofWord m).op, (Fields.ofWord w).f1 &&& (Fields.ofWord m).f1,
        (Fields.ofWord w).f2 &&& (Fields.ofWord m).f2, (Fields.ofWord w).f3 &&& (Fields.ofWord m).f3,
        (Fields.ofWord w).imm &&& (Fields.ofWord m).imm⟩ := by
  simp only [Fields.ofWord, BitVec.extractLsb'_and]

/-! A mask byte of all ones keeps its field; any other mask selects the unused upper bits of one. -/

section Masks
variable {b : Byte} {imm : Word}

theorem and_byteMask : b &&& 0xFF#8 = b := BitVec.and_allOnes

theorem and_wordMask : imm &&& 0xFFFFFFFF#32 = imm := BitVec.and_allOnes

theorem bits7to2_eq_zero_iff : b.extractLsb' 2 6 = 0#6 ↔ b &&& 0xFC#8 = 0#8 :=
  extractLsb'_upper_eq_zero_iff (v := 6) (w := 2)

theorem bits7to1_eq_zero_iff : b.extractLsb' 1 7 = 0#7 ↔ b &&& 0xFE#8 = 0#8 :=
  extractLsb'_upper_eq_zero_iff (v := 7) (w := 1)

theorem bits31to8_eq_zero_iff : imm.extractLsb' 8 24 = 0#24 ↔ imm &&& 0xFFFFFF00#32 = 0#32 :=
  extractLsb'_upper_eq_zero_iff (v := 24) (w := 8)

theorem bits31to16_eq_zero_iff : imm.extractLsb' 16 16 = 0#16 ↔ imm &&& 0xFFFF0000#32 = 0#32 :=
  extractLsb'_upper_eq_zero_iff (v := 16) (w := 16)

theorem bits31to24_eq_zero_iff : imm.extractLsb' 24 8 = 0#8 ↔ imm &&& 0xFF000000#32 = 0#32 :=
  extractLsb'_upper_eq_zero_iff (v := 8) (w := 24)

end Masks

/-- Mask and match of a row are steps 1 and 2 of decoding: compared field by field, the mask keeps the opcode and the bits
that must be zero (30_encoding.md R94, R96). -/
theorem and_mask_eq_pattern_iff {w : Cmd} {o : Op} :
    w &&& o.mask = o.pattern ↔ o.number = (Fields.ofWord w).op ∧ zerosOk o (Fields.ofWord w) = true := by
  rw [← Fields.ofWord_inj, Fields.ofWord_and, eq_comm (a := o.number)]
  generalize Fields.ofWord w = f
  obtain ⟨op, f1, f2, f3, imm⟩ := f
  cases o <;>
    simp [zerosOk, isBank_iff, Op.mask, Op.pattern, Op.number, Fields.ofWord, and_byteMask, and_wordMask,
      bits7to2_eq_zero_iff, bits7to1_eq_zero_iff, bits31to8_eq_zero_iff, bits31to16_eq_zero_iff,
      bits31to24_eq_zero_iff, and_assoc]

/-! ## The three steps of decoding (30_encoding.md R94) -/

theorem op_assemble (o : Op) (f : Fields) : (assemble o f).op = o := by cases o <;> rfl

theorem decode_reserved {w : Cmd} (h : ∀ o : Op, o.number ≠ (Fields.ofWord w).op) : decode w = .error .reservedOpcode := by
  have hnone : Op.ofNumber (Fields.ofWord w).op = none :=
    Option.eq_none_iff_forall_ne_some.mpr fun o ho => h o (Op.ofNumber_eq_some.mp ho)
  rw [decode, decodeFields, hnone]

theorem decode_of_number {w : Cmd} {o : Op} (h : o.number = (Fields.ofWord w).op) :
    decode w = if zerosOk o (Fields.ofWord w) then .ok (assemble o (Fields.ofWord w)) else .error .mustBeZero := by
  rw [decode, decodeFields, Op.ofNumber_eq_some.mpr h]

theorem decode_eq_ok_iff {w : Cmd} {i : Instr} :
    decode w = .ok i ↔ ∃ o : Op, w &&& o.mask = o.pattern ∧ assemble o (Fields.ofWord w) = i := by
  simp only [and_mask_eq_pattern_iff]
  constructor
  · intro hd
    by_cases hop : ∃ o : Op, o.number = (Fields.ofWord w).op
    · obtain ⟨o, ho⟩ := hop
      rw [decode_of_number ho] at hd
      split at hd
      next hz => cases hd; exact ⟨o, ⟨ho, hz⟩, rfl⟩
      · cases hd
    · rw [decode_reserved fun o ho => hop ⟨o, ho⟩] at hd
      cases hd
  · rintro ⟨o, ⟨ho, hz⟩, rfl⟩
    rw [decode_of_number ho, if_pos hz]

/-- The word of a command has the opcode of its row and zeros where the row has zeros (30_encoding.md R96). -/
theorem encodesItsRow (i : Instr) : Laws.EncodesItsRow.Statement i := by
  cases i with
  | gfmul => exact Laws.EncodesItsRow.gfmul ..
  | gfdiv => exact Laws.EncodesItsRow.gfdiv ..
  | genmat => exact Laws.EncodesItsRow.genmat ..
  | matmul => exact Laws.EncodesItsRow.matmul ..
  | matinv => exact Laws.EncodesItsRow.matinv ..
  | scrseed => exact Laws.EncodesItsRow.scrseed ..
  | scrbyte => exact Laws.EncodesItsRow.scrbyte ..
  | encode => exact Laws.EncodesItsRow.encode
  | decode => exact Laws.EncodesItsRow.decode
  | wrreg => exact Laws.EncodesItsRow.wrreg ..
  | rdreg => exact Laws.EncodesItsRow.rdreg ..
  | wrpay => exact Laws.EncodesItsRow.wrpay ..
  | rdpay => exact Laws.EncodesItsRow.rdpay ..
  | wrfrag => exact Laws.EncodesItsRow.wrfrag ..
  | rdfrag => exact Laws.EncodesItsRow.rdfrag ..
  | wrslot => exact Laws.EncodesItsRow.wrslot ..
  | rdslot => exact Laws.EncodesItsRow.rdslot ..
  | alive => exact Laws.EncodesItsRow.alive ..
  | wrmat => exact Laws.EncodesItsRow.wrmat ..
  | rdmat => exact Laws.EncodesItsRow.rdmat ..

theorem decode_encode {i : Instr} (hi : i.wellFormed = true) : decode (encode i) = .ok i := by
  obtain ⟨hop, hz⟩ := encodesItsRow i
  have hf : Fields.ofWord (encode i) = encodeFields i := Fields.ofWord_toWord _
  have hnum : i.op.number = (Fields.ofWord (encode i)).op := hf ▸ Op.ofNumber_eq_some.mp hop
  rw [decode_of_number hnum, hf, if_pos hz, assemble_encodeFields hi]

theorem encode_of_decode {w : Cmd} {i : Instr} (h : decode w = .ok i) : encode i = w := by
  obtain ⟨o, hrow, rfl⟩ := decode_eq_ok_iff.mp h
  obtain ⟨hop, hz⟩ := and_mask_eq_pattern_iff.mp hrow
  rw [encode, encodeFields_assemble hop hz, Fields.toWord_ofWord]

/-- A word is of the row of the command it decodes to, and of no other. -/
theorem and_mask_eq_pattern_iff_decode {w : Cmd} {o : Op} :
    w &&& o.mask = o.pattern ↔ ∃ i, decode w = .ok i ∧ i.op = o := by
  constructor
  · intro hrow
    exact ⟨_, decode_eq_ok_iff.mpr ⟨o, hrow, rfl⟩, op_assemble _ _⟩
  · rintro ⟨i, hd, rfl⟩
    obtain ⟨o, hrow, rfl⟩ := decode_eq_ok_iff.mp hd
    rwa [op_assemble]

end Sys2Proof

namespace Sys2Proof.Machine

/-! ## A step of any word -/

theorem step_illegal {s : State} {w : Cmd} {rest : List HostEvent} {why : Illegal}
    (hin : s.inputs = .command w :: rest) (hd : decode w = .error why) :
    step s = .next ((s.take rest).raise .illegalCommand) := by
  unfold step
  simp only [hin, hd]
  rfl

@[simp] theorem encodeCommit_inputs (s : State) : (encodeCommit s).inputs = s.inputs := rfl

/-- No command takes or adds a host event. -/
theorem Commits.inputs {s u : State} {i : Instr} (hu : Commits s i u) : u.inputs = s.inputs := by
  cases hu <;> simp [State.memWriteMany_eq, State.memWrite_eq, decodeCommit_eq]

theorem exec_inputs {s t : State} {i : Instr} (h : exec i s = .next t) : t.inputs = s.inputs :=
  exec_preserves State.inputs State.raise_inputs State.respond_inputs h fun _ hu => hu.inputs

/-- Every command answers, with a code of its own and with data 0 where that is an error (60_exceptions.md R290, R296). -/
theorem exec_answers {s t : State} {i : Instr} (h : exec i s = .next t) :
    ∃ x, t.rsp = some x ∧ x.code ≠ .error .invalidContainer ∧ (x.code ≠ .ok → x.data = 0) := by
  rcases exec_cases h with ⟨e, he, rfl⟩ | ⟨u, d, -, rfl⟩
  · exact ⟨_, rfl, fun hcode => he (Code.error.inj hcode), fun _ => rfl⟩
  · exact ⟨_, rfl, Code.noConfusion, fun hcode => absurd rfl hcode⟩

/-! ## Operands of the assembler -/

/-- A number that came from a field fits it. -/
@[simp] theorem field_toNat {w : Nat} (b : BitVec w) : field w b.toNat = some b := by
  simp [field, b.isLt]

end Sys2Proof.Machine

namespace Sys2Proof.Proofs

open Sys2Proof.Machine

/-- Settles O2: the fields of a command lead to its row, and assembling them gives back each operand. -/
theorem decodeOfEncode : Obligations.DecodeOfEncode := fun _ hi => decode_encode hi

/-- Settles O3: what the row does not give to an operand is zero in the word, by step 2 of decoding. -/
theorem encodeOfDecode : Obligations.EncodeOfDecode := fun _ _ hd => ⟨encode_of_decode hd, wellFormed_of_decode hd⟩

/-- Settles O4, by the reading of mask and match as steps 1 and 2 of decoding. -/
theorem wordIsCommandOrIllegal : Obligations.WordIsCommandOrIllegal := by
  refine ⟨fun w hop => decode_reserved hop, fun w o hop hrow => ?_, fun w o => and_mask_eq_pattern_iff_decode,
    fun s w rest hin hrow => ?_⟩
  · have hz : ¬zerosOk o (Fields.ofWord w) = true := fun hz => hrow (and_mask_eq_pattern_iff.mpr ⟨hop, hz⟩)
    rw [decode_of_number hop, if_neg hz]
  · cases hd : decode w with
    | error why => exact step_illegal hin hd
    | ok i => exact absurd (and_mask_eq_pattern_iff_decode.mpr ⟨i, hd, rfl⟩) (hrow i.op)

/-- Settles O7: a word that decodes is executed and a command always answers; any other is answered `IllegalCommand`. -/
theorem everyWordGetsOneResponse : Obligations.EveryWordGetsOneResponse := by
  intro s w rest hin
  cases hd : decode w with
  | error why => exact ⟨_, _, step_illegal hin hd, rfl, by decide, fun _ => rfl, rfl⟩
  | ok i =>
    obtain ⟨t, ht⟩ := exec_next i (s.take rest)
    obtain ⟨x, hx, hcode, hdata⟩ := exec_answers ht
    exact ⟨t, x, (step_command hin hd).trans ht, hx, hcode, hdata, exec_inputs ht⟩

/-- Settles O1: the commands are well formed and encode to the printed words; then the words decode, by the round trip. -/
theorem workedEncodingsAgree : Obligations.WorkedEncodingsAgree := by
  intro p hp
  have hrow : p.2.wellFormed = true ∧ encode p.2 = p.1 := by
    revert p
    decide
  exact ⟨hrow.2 ▸ decode_encode hrow.1, hrow.2⟩

/-- Settles O5, by counting over the 256 opcode values. -/
theorem reservedOpcodesAreIllegal : Obligations.ReservedOpcodesAreIllegal := by
  refine ⟨by decide +kernel, decode_reserved fun o => ?_, decode_reserved fun o => ?_⟩ <;> cases o <;> decide

/-- Settles O8: the code stands above the 32 bits of data. -/
theorem responseWordLayout : Obligations.ResponseWordLayout :=
  ⟨fun _ => ⟨BitVec.extractLsb'_append_eq_left, BitVec.extractLsb'_append_eq_right⟩, rfl, rfl, rfl, rfl, rfl, rfl, rfl⟩

/-- Settles O60: each expansion is a core line whose operands fit their fields. -/
theorem pseudoCommandsExpand : Obligations.PseudoCommandsExpand := by
  have hzero : field 8 0 = some 0 := rfl
  have hone : field 8 1 = some 1 := rfl
  refine ⟨fun slot => ?_, fun slot => ?_, fun slot => ?_, fun a => ?_⟩
  · simp [AsmLine.word, AsmLine.expand, AsmLine.assemble, bit]
  · simp [AsmLine.word, AsmLine.expand, AsmLine.assemble, bit]
  · simp [AsmLine.word, AsmLine.expand, AsmLine.assemble, bit, hzero]
  · simp [AsmLine.word, AsmLine.expand, AsmLine.assemble, hone]

end Sys2Proof.Proofs
end

section
/-! Field arithmetic: the table-free product is a commutative and associative product over XOR, the first 255 powers of a
generator are the non-zero bytes once each, and so the tables of every generator multiply and divide in the one field. -/

namespace Sys2Proof.Machine

/-! ## The table-free product (40_field_arithmetic.md R126) -/

theorem xor_xor_xor_comm {w : Nat} (p q u v : BitVec w) : (p ^^^ q) ^^^ (u ^^^ v) = (p ^^^ u) ^^^ (q ^^^ v) := by
  ac_rfl

/-- A term that a bit selects, for the XOR of two bits. -/
theorem ite_xor_eq_xor_ite {w : Nat} (p q : Bool) (m : BitVec w) :
    (if (p ^^ q) = true then m else 0) = (if p = true then m else 0) ^^^ (if q = true then m else 0) := by
  cases p <;> cases q <;> simp

theorem clmul_xor_left (a b c : Byte) (n : Nat) : clmul (a ^^^ b) c n = clmul a c n ^^^ clmul b c n := by
  induction n with
  | zero => simp [clmul]
  | succ n ih =>
    rw [clmul, clmul, clmul, ih, xor_xor_xor_comm]
    split
    · rw [BitVec.setWidth_xor, BitVec.shiftLeft_xor_distrib]
    · rw [BitVec.xor_self]; rfl

theorem clmul_xor_right (a b c : Byte) (n : Nat) : clmul a (b ^^^ c) n = clmul a b n ^^^ clmul a c n := by
  induction n with
  | zero => simp [clmul]
  | succ n ih => rw [clmul, clmul, clmul, ih, xor_xor_xor_comm, BitVec.getLsbD_xor, ite_xor_eq_xor_ite]

/-- One step of the reduction as an XOR. -/
theorem reduce_succ (n : Nat) (p : BitVec 16) :
    reduce (n + 1) p = reduce n (p ^^^ (if p.getLsbD (n + 8) = true then Config.fieldPoly <<< n else 0)) := by
  rw [reduce]
  split
  · rfl
  · rw [BitVec.ofNat_eq_ofNat, BitVec.xor_zero]

theorem reduce_xor (n : Nat) (p q : BitVec 16) : reduce n (p ^^^ q) = reduce n p ^^^ reduce n q := by
  induction n generalizing p q with
  | zero => rfl
  | succ n ih =>
    rw [reduce_succ, reduce_succ, reduce_succ, ← ih, xor_xor_xor_comm, BitVec.getLsbD_xor, ite_xor_eq_xor_ite]

theorem polyMul_xor_left (a b c : Byte) : polyMul (a ^^^ b) c = polyMul a c ^^^ polyMul b c := by
  simp only [polyMul, clmul_xor_left, reduce_xor, BitVec.setWidth_xor]

theorem polyMul_xor_right (a b c : Byte) : polyMul a (b ^^^ c) = polyMul a b ^^^ polyMul a c := by
  simp only [polyMul, clmul_xor_right, reduce_xor, BitVec.setWidth_xor]

/-- A byte is the XOR of its bits. -/
theorem foldr_xor_bits : ∀ a : Byte,
    (List.range 8).foldr (fun i x => (if a.getLsbD i then 1#8 <<< i else 0) ^^^ x) 0 = a := by
  decide +kernel

/-- What holds of the eight powers of `x` and passes to XORs holds of every byte. -/
theorem byte_xor_induction {P : Byte → Prop} (hbit : ∀ i < 8, P (1#8 <<< i))
    (hxor : ∀ a b, P a → P b → P (a ^^^ b)) (a : Byte) : P a := by
  have hzero : P 0 := hxor _ _ (hbit 0 (by decide)) (hbit 0 (by decide))
  rw [← foldr_xor_bits a]
  refine List.foldrRecOn (motive := P) _ _ hzero fun x hx i hi => hxor _ _ ?_ hx
  split
  · exact hbit i (List.mem_range.mp hi)
  · exact hzero

theorem polyMul_comm (a b : Byte) : polyMul a b = polyMul b a := by
  induction a using byte_xor_induction with
  | hxor a a' ha ha' => rw [polyMul_xor_left, polyMul_xor_right, ha, ha']
  | hbit i hi =>
    induction b using byte_xor_induction with
    | hxor b b' hb hb' => rw [polyMul_xor_left, polyMul_xor_right, hb, hb']
    | hbit j hj =>
      have hbits : ∀ i < 8, ∀ j < 8, polyMul (1#8 <<< i) (1#8 <<< j) = polyMul (1#8 <<< j) (1#8 <<< i) := by
        decide +kernel
      exact hbits i hi j hj

theorem polyMul_assoc (a b c : Byte) : polyMul (polyMul a b) c = polyMul a (polyMul b c) := by
  induction a using byte_xor_induction with
  | hxor a a' ha ha' => simp only [polyMul_xor_left, ha, ha']
  | hbit i hi =>
    induction b using byte_xor_induction with
    | hxor b b' hb hb' => simp only [polyMul_xor_left, polyMul_xor_right, hb, hb']
    | hbit j hj =>
      induction c using byte_xor_induction with
      | hxor c c' hc hc' => simp only [polyMul_xor_right, hc, hc']
      | hbit k hk =>
        have hbits : ∀ i < 8, ∀ j < 8, ∀ k < 8, polyMul (polyMul (1#8 <<< i) (1#8 <<< j)) (1#8 <<< k) =
            polyMul (1#8 <<< i) (polyMul (1#8 <<< j) (1#8 <<< k)) := by
          decide +kernel
        exact hbits i hi j hj k hk

@[simp] theorem polyMul_one (a : Byte) : polyMul a 1#8 = a := by
  revert a
  decide +kernel

@[simp] theorem one_polyMul (a : Byte) : polyMul 1#8 a = a := by rw [polyMul_comm, polyMul_one]

@[simp] theorem zero_polyMul (a : Byte) : polyMul 0#8 a = 0#8 := by
  simpa using polyMul_xor_left 0#8 0#8 a

@[simp] theorem polyMul_zero (a : Byte) : polyMul a 0#8 = 0#8 := by rw [polyMul_comm, zero_polyMul]

/-! ## Powers -/

/-- `g^n` in the field. -/
def power (g : Byte) : Nat → Byte
  | 0 => 0x01
  | n + 1 => polyMul g (power g n)

theorem power_add (g : Byte) (i j : Nat) : power g (i + j) = polyMul (power g i) (power g j) := by
  induction i with
  | zero => simp [power]
  | succ i ih => rw [Nat.succ_add, power, power, ih, polyMul_assoc]

/-- Entry `i` of the loop that fills `EXP` (40_field_arithmetic.md R124). -/
theorem powers_getElem? (g : Byte) {n i : Nat} (hi : i < n) (v : Byte) :
    (powers g n v)[i]? = some (polyMul v (power g i)) := by
  induction n generalizing i v with
  | zero => cases hi
  | succ n ih =>
    cases i with
    | zero => simp [powers, power]
    | succ i => simp [powers, power, ih (Nat.lt_of_succ_lt_succ hi), polyMul_assoc]

theorem powers_one_getElem? (g : Byte) {i : Nat} (hi : i < 255) : (powers g 255 0x01)[i]? = some (power g i) := by
  simpa using powers_getElem? g hi 0x01

theorem powers_one_getElem (g : Byte) {i : Nat} (hi : i < (powers g 255 0x01).length) :
    (powers g 255 0x01)[i] = power g i :=
  Option.some.inj <| (List.getElem?_eq_getElem hi).symm.trans (powers_one_getElem? g (powers_length g 255 0x01 ▸ hi))

/-- `EXP[i]`: the 255 powers of `g`, repeated with period 255 (40_field_arithmetic.md R124, R125). -/
theorem expAt_build (g : Byte) {i : Nat} (hi : i < 512) : (Tables.build g).expAt i = power g (i % 255) := by
  have hlen : (powers g 255 0x01).length = 255 := powers_length ..
  suffices h : (expTable g)[i]? = some (power g (i % 255)) by
    simpa [Tables.expAt, Tables.build, Vector.getD, hi] using congrArg (·.getD 0) h
  unfold expTable
  generalize hP : powers g 255 0x01 = P at hlen
  have hentry {j : Nat} (hj : j < 255) : P[j]? = some (power g j) := hP ▸ powers_one_getElem? g hj
  rcases Nat.lt_or_ge i 510 with h510 | h510
  · rw [List.getElem?_append_left (by simpa [hlen] using h510)]
    rcases Nat.lt_or_ge i 255 with h255 | h255
    · rw [List.getElem?_append_left (by omega), hentry h255, Nat.mod_eq_of_lt h255]
    · rw [List.getElem?_append_right (by omega), hlen, hentry (by omega), show i - 255 = i % 255 by omega]
  · rw [List.getElem?_append_right (by simpa [hlen] using h510), List.length_append, hlen,
      List.getElem?_take_of_lt (by omega), hentry (by omega), show i - (255 + 255) = i % 255 by omega]

/-! ## The powers of a generator -/

theorem card_nonzero_bytes : (Finset.univ.erase (0 : Byte)).card = 255 := by
  rw [Finset.card_erase_of_mem (Finset.mem_univ _), Finset.card_univ, ← FinEnum.card_eq_fintypeCard]
  rfl

section Generator
variable {g : Byte} (hg : isGenerator g)
include hg

/-- The 255 powers are the 255 non-zero bytes: no room is left for a repeated power, or for 0. -/
theorem toFinset_powers : (powers g 255 0x01).toFinset = Finset.univ.erase 0 := by
  refine (Finset.eq_of_subset_of_card_le (fun a ha => ?_) ?_).symm
  · exact List.mem_toFinset.mpr (hg a (Finset.ne_of_mem_erase ha))
  · calc (powers g 255 0x01).toFinset.card ≤ (powers g 255 0x01).length := List.toFinset_card_le _
      _ = (Finset.univ.erase (0 : Byte)).card := by rw [powers_length, card_nonzero_bytes]

theorem nodup_powers : (powers g 255 0x01).Nodup := by
  refine Multiset.toFinset_card_eq_card_iff_nodup (m := (powers g 255 0x01 : Multiset Byte)).mp ?_
  calc (powers g 255 0x01).toFinset.card = 255 := by rw [toFinset_powers hg, card_nonzero_bytes]
    _ = (powers g 255 0x01).length := (powers_length ..).symm

theorem exists_power_eq {a : Byte} (ha : a ≠ 0) : ∃ i < 255, power g i = a := by
  obtain ⟨i, hi, rfl⟩ := List.mem_iff_getElem.mp (hg a ha)
  exact ⟨i, powers_length g 255 0x01 ▸ hi, (powers_one_getElem g hi).symm⟩

theorem power_ne_zero {i : Nat} (hi : i < 255) : power g i ≠ 0 := by
  have hmem : power g i ∈ (powers g 255 0x01).toFinset :=
    List.mem_toFinset.mpr (List.mem_of_getElem? (powers_one_getElem? g hi))
  rw [toFinset_powers hg] at hmem
  exact Finset.ne_of_mem_erase hmem

theorem idxOf_power {i : Nat} (hi : i < 255) : (powers g 255 0x01).idxOf (power g i) = i := by
  have hlen : i < (powers g 255 0x01).length := by rwa [powers_length]
  rw [← powers_one_getElem g hlen, (nodup_powers hg).idxOf_getElem]

/-- The generator has an inverse: every byte but 0 and 1 is a later power, so a multiple of `g`; then so is
`2 ^^^ 3 = 1`. -/
theorem exists_polyMul_eq_one : ∃ c, polyMul g c = 1#8 := by
  have hmul {a : Byte} (h0 : a ≠ 0) (h1 : a ≠ 1) : ∃ c, polyMul g c = a := by
    obtain ⟨i, -, rfl⟩ := exists_power_eq hg h0
    cases i with
    | zero => exact absurd rfl h1
    | succ i => exact ⟨power g i, rfl⟩
  obtain ⟨c, hc⟩ := hmul (a := 2) (by decide) (by decide)
  obtain ⟨d, hd⟩ := hmul (a := 3) (by decide) (by decide)
  exact ⟨c ^^^ d, by rw [polyMul_xor_right, hc, hd]; decide⟩

/-- The order of a generator is 255: the power that is its inverse can only be the last. -/
theorem power_255 : power g 255 = 1#8 := by
  obtain ⟨c, hc⟩ := exists_polyMul_eq_one hg
  have hc0 : c ≠ 0 := by
    rintro rfl
    simp at hc
  obtain ⟨i, hi, rfl⟩ := exists_power_eq hg hc0
  have hlast : i = 254 := by
    by_contra hne
    have hsucc := idxOf_power hg (i := i + 1) (by omega)
    have hzero := idxOf_power hg (i := 0) (by omega)
    rw [show power g (i + 1) = power g 0 from hc, hzero] at hsucc
    omega
  subst hlast
  exact hc

theorem power_mod (i : Nat) : power g (i % 255) = power g i := by
  have hperiod (q : Nat) : power g (255 * q) = 1#8 := by
    induction q with
    | zero => rfl
    | succ q ih => rw [Nat.mul_succ, power_add, ih, power_255 hg, polyMul_one]
  conv_rhs => rw [← Nat.mod_add_div i 255, power_add, hperiod, polyMul_one]

/-! ## The tables of a generator -/

theorem expAt_build_of_generator {i : Nat} (hi : i < 512) : (Tables.build g).expAt i = power g i := by
  rw [expAt_build g hi, power_mod hg]

/-- `LOG` is the inverse of `EXP` (40_field_arithmetic.md R124). -/
theorem logAt_build_power {i : Nat} (hi : i < 255) : (Tables.build g).logAt (power g i) = i := by
  have hne := power_ne_zero hg hi
  generalize ha : power g i = a at hne
  have hpos : a.toNat ≠ 0 := fun h => hne (BitVec.eq_of_toNat_eq h)
  have hlt := a.isLt
  have hidx : (powers g 255 0x01).findIdx (· == a) = i := ha ▸ idxOf_power hg hi
  have hentry : (logTable g)[a.toNat - 1]? = some (BitVec.ofNat 8 i) := by
    have hback : BitVec.ofNat 8 (a.toNat - 1 + 1) = a := by
      rw [Nat.sub_add_cancel (Nat.pos_of_ne_zero hpos), BitVec.ofNat_toNat, BitVec.setWidth_eq]
    rw [logTable, List.getElem?_map, List.getElem?_range (by omega), Option.map_some, hback, hidx]
  have hget : (Tables.build g).logAt a = (BitVec.ofNat 8 i).toNat := by
    simpa [Tables.logAt, Tables.build, Vector.getD, show a.toNat - 1 < 255 by omega]
      using congrArg (fun x => (x.getD 0).toNat) hentry
  rw [hget, BitVec.toNat_ofNat, Nat.mod_eq_of_lt (by omega)]

theorem gfMul_build (a b : Byte) : gfMul (Tables.build g) a b = polyMul a b := by
  unfold gfMul
  split
  next hzero => rcases hzero with rfl | rfl <;> simp
  next hne =>
    obtain ⟨ha, hb⟩ := not_or.mp hne
    obtain ⟨i, hi, rfl⟩ := exists_power_eq hg ha
    obtain ⟨j, hj, rfl⟩ := exists_power_eq hg hb
    rw [logAt_build_power hg hi, logAt_build_power hg hj, expAt_build_of_generator hg (by omega), power_mod hg,
      power_add]

/-- The quotient is right: times the divisor it gives the dividend. -/
theorem gfDiv_build_polyMul (a : Byte) {b : Byte} (hb : b ≠ 0) : polyMul (gfDiv (Tables.build g) a b) b = a := by
  rw [gfDiv, if_neg hb]
  split
  next hzero => rw [hzero]; exact zero_polyMul b
  next ha =>
    obtain ⟨i, hi, rfl⟩ := exists_power_eq hg ha
    obtain ⟨j, hj, rfl⟩ := exists_power_eq hg hb
    rw [logAt_build_power hg hi, logAt_build_power hg hj, expAt_build_of_generator hg (by omega), power_mod hg,
      ← power_add, show 255 + i - j + j = i + 255 by omega, power_add, power_255 hg, polyMul_one]

/-- The quotient is the only byte with that product (40_field_arithmetic.md R126). -/
theorem polyMul_eq_iff_eq_gfDiv {a b : Byte} (hb : b ≠ 0) (c : Byte) :
    polyMul c b = a ↔ c = gfDiv (Tables.build g) a b := by
  have hinv (d : Byte) : polyMul (polyMul d b) (gfDiv (Tables.build g) 1#8 b) = d := by
    rw [polyMul_assoc, polyMul_comm b, gfDiv_build_polyMul hg 1#8 hb, polyMul_one]
  constructor
  · intro h
    calc c = polyMul (polyMul c b) (gfDiv (Tables.build g) 1#8 b) := (hinv c).symm
      _ = polyMul (polyMul (gfDiv (Tables.build g) a b) b) (gfDiv (Tables.build g) 1#8 b) := by
        rw [h, gfDiv_build_polyMul hg a hb]
      _ = gfDiv (Tables.build g) a b := hinv _
  · rintro rfl
    exact gfDiv_build_polyMul hg a hb

end Generator

/-! ## The generator the tables are built from (00_scope.md R10) -/

theorem isGenerator_gen : isGenerator Config.gen := by
  unfold isGenerator
  decide +kernel

theorem polyMul_right_cancel {a b c : Byte} (hc : c ≠ 0) (h : polyMul a c = polyMul b c) : a = b := by
  have hdiv (d : Byte) (hd : polyMul d c = polyMul b c) := (polyMul_eq_iff_eq_gfDiv isGenerator_gen hc d).mp hd
  exact (hdiv a h).trans (hdiv b rfl).symm

end Sys2Proof.Machine
end

section
/-! No command shows which generator the field tables were built from: tables with the same products and quotients give the
same next state. -/

namespace Sys2Proof.Machine

/-! ## What the tables are used for -/

/-- Two tables multiply and divide alike. -/
structure SameField (T U : Tables) : Prop where
  mul : gfMul T = gfMul U
  div : gfDiv T = gfDiv U

section SameField
variable {T U : Tables} (h : SameField T U)
include h

theorem SameField.build : Machine.build T = Machine.build U := by
  funext k i j
  rw [Machine.build, Machine.build, h.div]

theorem SameField.matMul : Machine.matMul T = Machine.matMul U := by
  funext p A B i j
  rw [Machine.matMul, Machine.matMul, h.mul]

theorem SameField.pivotStep : Machine.pivotStep T = Machine.pivotStep U := by
  have hscale : scaleRow T = scaleRow U := by
    funext m i v W
    rw [scaleRow, scaleRow, h.mul]
  have hclear : clearColumn T = clearColumn U := by
    funext m i f W
    rw [clearColumn, clearColumn, h.mul]
  funext m i WC
  rw [Machine.pivotStep, Machine.pivotStep, hscale, hclear, h.div]

theorem SameField.pivots : Machine.pivots T = Machine.pivots U := by
  funext m n WC
  induction n with
  | zero => rfl
  | succ n ih => rw [Machine.pivots, Machine.pivots, ih, h.pivotStep]

theorem SameField.matInv : Machine.matInv T = Machine.matInv U := by
  funext m M
  rw [Machine.matInv, Machine.matInv, h.pivots]

end SameField

theorem sameField_of_generators {g g' : Byte} (hg : isGenerator g) (hg' : isGenerator g') :
    SameField (Tables.build g) (Tables.build g') where
  mul := by
    funext a b
    rw [gfMul_build hg, gfMul_build hg']
  div := by
    funext a b
    by_cases hb : b = 0
    · rw [gfDiv, gfDiv, if_pos hb, if_pos hb]
    · exact (polyMul_eq_iff_eq_gfDiv hg' hb _).mp (gfDiv_build_polyMul hg a hb)

/-! ## The same state with other tables -/

/-- The state `s` with the tables `T`. -/
def State.withTables (s : State) (T : Tables) : State := { s with tables := T }

section WithTables
variable (s : State) (T : Tables)

@[simp] theorem State.withTables_mem (sp : Space) : (s.withTables T).mem sp = s.mem sp := by cases sp <;> rfl

@[simp] theorem State.withTables_memRead (sp : Space) (a : Nat) : (s.withTables T).memRead sp a = s.memRead sp a := by
  cases sp <;> rfl

theorem State.withTables_setMem (sp : Space) (m : Memory) :
    (s.withTables T).setMem sp m = (s.setMem sp m).withTables T := by cases sp <;> rfl

theorem State.withTables_memWriteMany (sp : Space) (a : Nat) (vs : List Byte) :
    (s.withTables T).memWriteMany sp a vs = (s.memWriteMany sp a vs).withTables T := by
  rw [State.memWriteMany_eq, State.withTables_mem, State.withTables_setMem, State.memWriteMany_eq]

theorem State.withTables_setReg (x : RegName) (v : Word) :
    (s.withTables T).setReg x v = (s.setReg x v).withTables T := by cases x <;> rfl

@[simp] theorem State.withTables_reg (x : RegName) : (s.withTables T).reg x = s.reg x := by cases x <;> rfl

@[simp] theorem State.withTables_tables : (s.withTables T).tables = T := rfl

@[simp] theorem State.withTables_k : (s.withTables T).k = s.k := rfl

@[simp] theorem State.withTables_descriptorError : (s.withTables T).descriptorError = s.descriptorError := rfl

theorem bankMatrix_withTables : bankMatrix (s.withTables T) = bankMatrix s := rfl

theorem scrambledBlock_withTables : scrambledBlock (s.withTables T) = scrambledBlock s := rfl

theorem aliveSlots_withTables : aliveSlots (s.withTables T) = aliveSlots s := rfl

theorem insertById_withTables (x : BitVec 8) (l : List (BitVec 8)) :
    insertById (s.withTables T) x l = insertById s x l := by
  induction l with
  | nil => rfl
  | cons y ys ih => rw [insertById, insertById, ih]; rfl

theorem sortById_withTables (l : List (BitVec 8)) : sortById (s.withTables T) l = sortById s l := by
  induction l with
  | nil => rfl
  | cons x xs ih => rw [sortById, sortById, ih, insertById_withTables]

theorem selectedSlot_withTables : selectedSlot (s.withTables T) = selectedSlot s := by
  funext l
  rw [selectedSlot, selectedSlots, aliveSlots_withTables, sortById_withTables]
  rfl

theorem selectedId_withTables : selectedId (s.withTables T) = selectedId s := by
  funext l
  rw [selectedId, selectedSlot_withTables]
  rfl

theorem selectedBytes_withTables : selectedBytes (s.withTables T) = selectedBytes s := by
  funext l t
  rw [selectedBytes, selectedSlot_withTables]
  rfl

end WithTables

/-! The parts of `ENCODE` and `DECODE` that use the tables. -/

section SameFieldState
variable {s : State} {T : Tables} (h : SameField T s.tables)
include h

theorem fragmentByte_withTables : fragmentByte (s.withTables T) = fragmentByte s := by
  funext id t
  rw [fragmentByte, parityBlock, scrambledBlock_withTables, State.withTables_tables, h.matMul, h.build]
  rfl

theorem encodeCommit_withTables : encodeCommit (s.withTables T) = (encodeCommit s).withTables T := by
  rw [encodeCommit, fragmentByte_withTables h]
  rfl

theorem submatrix_withTables : submatrix (s.withTables T) = submatrix s := by
  funext l j
  rw [submatrix, selectedId_withTables, State.withTables_tables, h.build]
  rfl

theorem recoveredByte_withTables : recoveredByte (s.withTables T) = recoveredByte s := by
  funext V a
  rw [recoveredByte, selectedBytes_withTables, State.withTables_tables, h.matMul]
  rfl

theorem decodeCommit_withTables (V : Matrix) : decodeCommit (s.withTables T) V = (decodeCommit s V).withTables T := by
  rw [decodeCommit_eq, recoveredByte_withTables h, State.withTables_memWriteMany, State.withTables_setReg]
  rfl

end SameFieldState

/-! ## Commands on other tables -/

/-- Both end in a next state, the second in the first's with the tables `T`. -/
def EqualButTables (T : Tables) (o o' : Host.Outcome State Fault Refusal) : Prop :=
  ∃ t, o = .next t ∧ o' = .next (t.withTables T)

section Commands
variable {s u u' : State} {T : Tables}

theorem equalButTables_error (e : ErrorKind) :
    EqualButTables T (complete s (.error e)) (complete (s.withTables T) (.error e)) := ⟨_, rfl, rfl⟩

theorem equalButTables_ok (hu : u' = u.withTables T) (d : Word) :
    EqualButTables T (complete s (.ok (u, d))) (complete (s.withTables T) (.ok (u', d))) := hu ▸ ⟨_, rfl, rfl⟩

/-- A test that does not see the tables. -/
theorem equalButTables_ite {c : Prop} [Decidable c] {x x' y y' : Except ErrorKind (State × Word)}
    (hx : EqualButTables T (complete s x) (complete (s.withTables T) x'))
    (hy : EqualButTables T (complete s y) (complete (s.withTables T) y')) :
    EqualButTables T (complete s (if c then x else y)) (complete (s.withTables T) (if c then x' else y')) := by
  split
  · exact hx
  · exact hy

theorem readByte_equalButTables (sp : Space) (a : Nat) :
    EqualButTables T (readByte sp a s) (readByte sp a (s.withTables T)) := by
  rw [readByte, readByte, State.withTables_memRead]
  exact equalButTables_ite (equalButTables_error _) (equalButTables_ok rfl _)

theorem writeByte_equalButTables (sp : Space) (a : Nat) (v : Byte) :
    EqualButTables T (writeByte sp a v s) (writeByte sp a v (s.withTables T)) :=
  equalButTables_ite (equalButTables_error _) (equalButTables_ok (s.withTables_memWriteMany T sp a [v]) _)

variable (h : SameField T s.tables)
include h

theorem execDecode_equalButTables : EqualButTables T (execDecode s) (execDecode (s.withTables T)) := by
  rw [execDecode, execDecode, State.withTables_descriptorError, aliveSlots_withTables, selectedId_withTables,
    submatrix_withTables h, State.withTables_k, State.withTables_tables, h.matInv]
  cases s.descriptorError with
  | some e => exact equalButTables_error e
  | none =>
    refine equalButTables_ite (equalButTables_error _) (equalButTables_ite (equalButTables_error _) ?_)
    cases matInv s.tables s.k.toNat (submatrix s) with
    | none => exact equalButTables_error _
    | some V => exact equalButTables_ok (decodeCommit_withTables h V) _

/-- With tables that multiply and divide alike every command does the same. -/
theorem exec_equalButTables (i : Instr) : EqualButTables T (exec i s) (exec i (s.withTables T)) := by
  cases i with
  | gfmul a b =>
    show EqualButTables T (execGfmul a b s) (execGfmul a b (s.withTables T))
    rw [execGfmul, execGfmul, State.withTables_tables, h.mul]
    exact equalButTables_ok rfl _
  | gfdiv a b =>
    show EqualButTables T (execGfdiv a b s) (execGfdiv a b (s.withTables T))
    rw [execGfdiv, execGfdiv, State.withTables_tables, h.div]
    exact equalButTables_ok rfl _
  | genmat d n k =>
    show EqualButTables T (execGenmat d n k s) (execGenmat d n k (s.withTables T))
    rw [execGenmat, execGenmat, State.withTables_tables, h.build]
    exact equalButTables_ite (equalButTables_error _) (equalButTables_ok (s.withTables_memWriteMany T _ _ _) _)
  | matmul d a b m p q =>
    show EqualButTables T (execMatmul d a b m p q s) (execMatmul d a b m p q (s.withTables T))
    rw [execMatmul, execMatmul, State.withTables_tables, h.matMul, bankMatrix_withTables]
    exact equalButTables_ok (s.withTables_memWriteMany T _ _ _) _
  | matinv d src m =>
    show EqualButTables T (execMatinv d src m s) (execMatinv d src m (s.withTables T))
    rw [execMatinv, execMatinv, State.withTables_tables, h.matInv, bankMatrix_withTables]
    cases matInv s.tables m (bankMatrix s src m) with
    | none => exact equalButTables_error _
    | some C => exact equalButTables_ok (s.withTables_memWriteMany T _ _ _) _
  | scrseed key => exact equalButTables_ok (s := s) (s.withTables_setReg T .scr key) _
  | scrbyte x => exact equalButTables_ok (s := s) (s.withTables_setReg T .scr (lcg s.scr)) _
  | encode =>
    show EqualButTables T (execEncode s) (execEncode (s.withTables T))
    rw [execEncode, execEncode, State.withTables_descriptorError, encodeCommit_withTables h]
    cases s.descriptorError with
    | some e => exact equalButTables_error e
    | none => exact equalButTables_ok rfl _
  | decode => exact execDecode_equalButTables h
  | wrreg reg value =>
    show EqualButTables T (execWrreg reg value s) (execWrreg reg value (s.withTables T))
    rw [execWrreg, execWrreg]
    cases RegName.ofNumber reg with
    | none => exact equalButTables_error _
    | some x =>
      exact equalButTables_ite (equalButTables_ok (s.withTables_setReg T x value) _) (equalButTables_error _)
  | rdreg reg =>
    show EqualButTables T (execRdreg reg s) (execRdreg reg (s.withTables T))
    rw [execRdreg, execRdreg]
    cases RegName.ofNumber reg with
    | none => exact equalButTables_error _
    | some x =>
      simp only [State.withTables_reg]
      exact equalButTables_ok rfl _
  | wrpay addr v => exact writeByte_equalButTables ..
  | rdpay addr => exact readByte_equalButTables ..
  | wrfrag x off v => exact writeByte_equalButTables ..
  | rdfrag x off => exact readByte_equalButTables ..
  | wrslot x id valid alive => exact equalButTables_ok (s := s) (u := s.setSlot x ⟨valid, alive, id⟩) rfl _
  | rdslot x => exact equalButTables_ok (s := s) (u := s) rfl _
  | alive x v => exact equalButTables_ok (s := s) (u := s.setSlot x { s.slot x with alive := v }) rfl _
  | wrmat b off v => exact writeByte_equalButTables ..
  | rdmat b off => exact readByte_equalButTables ..

end Commands

end Sys2Proof.Machine

namespace Sys2Proof.Proofs

open Sys2Proof.Machine

/-- Settles O20: every non-zero byte is one power of the generator, so the tables add and subtract exponents modulo its order;
a command uses them only to multiply and divide. -/
theorem fieldOperationsIndependentOfGenerator : Obligations.FieldOperationsIndependentOfGenerator := by
  refine fun g hg => ⟨fun a b => ⟨gfMul_build hg a b, if_pos rfl, fun hb c => polyMul_eq_iff_eq_gfDiv hg hb c⟩,
    fun i s hs => ?_⟩
  have hsame : SameField (Tables.build g) s.tables := hs ▸ sameField_of_generators hg isGenerator_gen
  exact exec_equalButTables hsame i

/-- Settles O21, by the laws of the table-free product, which the tables compute. -/
theorem fieldLaws : Obligations.FieldLaws := by
  intro a b c
  have hmul := gfMul_build isGenerator_gen
  have hdiv {a b : Byte} (hb : b ≠ 0) (c : Byte) := polyMul_eq_iff_eq_gfDiv isGenerator_gen (a := a) hb c
  simp only [hmul]
  refine ⟨polyMul_comm a b, polyMul_assoc a b c, polyMul_xor_right a b c, polyMul_one a, ?_, polyMul_zero a, zero_polyMul a,
    ?_, fun hab => ?_, fun ha => ?_, fun hb => ⟨?_, ?_⟩, if_pos rfl⟩
  · exact ((hdiv (by decide) a).mp (polyMul_one a)).symm
  · by_cases hb : b = 0
    · exact if_pos hb
    · exact ((hdiv hb 0).mp (zero_polyMul b)).symm
  · by_contra hne
    obtain ⟨ha, hb⟩ := not_or.mp hne
    exact ha (polyMul_right_cancel hb (hab.trans (zero_polyMul b).symm))
  · rw [polyMul_comm]
    exact (hdiv ha _).mpr rfl
  · exact ((hdiv hb a).mp rfl).symm
  · exact (hdiv hb _).mpr rfl

/-- Settles O22: the tables compute the table-free product. -/
theorem gfmulAnswersProduct : Obligations.GfmulAnswersProduct := by
  refine ⟨fun a b => decode_encode (i := .gfmul a b) rfl, fun a b s hs => ?_⟩
  have hmul : gfMul s.tables a b = polyMul a b := by rw [hs, gfMul_build isGenerator_gen]
  exact hmul ▸ rfl

/-- Settles O23, by the quotient of the tables. -/
theorem gfdivAnswersQuotient : Obligations.GfdivAnswersQuotient := by
  refine ⟨fun a b => decode_encode (i := .gfdiv a b) rfl, fun a b s hs =>
    ⟨gfDiv s.tables a b, rfl, fun hb => if_pos hb, fun hb => ?_⟩⟩
  rw [hs, gfDiv_build_polyMul isGenerator_gen a hb]

/-- Settles O19: `EXP` lists the powers of `x`, and multiplication by `x` is one shift and one reduction. -/
theorem fieldTablesAreFilled : Obligations.FieldTablesAreFilled := by
  have hexp {i : Nat} (hi : i < 512) := expAt_build_of_generator isGenerator_gen hi
  have hxtime : ∀ v, polyMul Config.gen v = xtime v := by decide +kernel
  refine ⟨hexp (by decide), fun i hi => ?_, fun i hi => ?_, fun i hi => ?_, fun a ha => ?_, ?_, ?_, ?_⟩
  · rw [hexp (by omega), hexp (by omega), power, hxtime]
  · rw [expAt_build _ (by omega), expAt_build _ (by omega), Nat.add_mod_right]
  · rw [hexp (by omega), logAt_build_power isGenerator_gen hi]
  · obtain ⟨i, hi, rfl⟩ := exists_power_eq isGenerator_gen ha
    rw [logAt_build_power isGenerator_gen hi, hexp (by omega)]
  · decide +kernel
  · rw [hexp (by decide)]
    have hinv : polyMul (power Config.gen 254) Config.gen = polyMul 0x8E Config.gen := by
      rw [polyMul_comm, ← power, power_255 isGenerator_gen]
      decide
    exact polyMul_right_cancel (by decide) hinv
  · decide +kernel

end Sys2Proof.Proofs
end

section
/-! Elimination: XOR sums of products are linear, every step of the elimination of 42_matrix_algebra.md R160 keeps the
solutions of its linear system, and so `mat_inv` solves the system of its matrix or shows that it has no inverse. -/

namespace Sys2Proof.Machine

/-! ## XOR sums -/

theorem xorSum_xor (n : Nat) (f g : Nat → Byte) : xorSum n (fun l => f l ^^^ g l) = xorSum n f ^^^ xorSum n g := by
  induction n with
  | zero => exact (BitVec.xor_self (x := 0#8)).symm
  | succ n ih => rw [xorSum_succ, xorSum_succ, xorSum_succ, ih, xor_xor_xor_comm]

theorem polyMul_xorSum (a : Byte) (n : Nat) (f : Nat → Byte) :
    polyMul a (xorSum n f) = xorSum n fun l => polyMul a (f l) := by
  induction n with
  | zero => exact polyMul_zero a
  | succ n ih => rw [xorSum_succ, xorSum_succ, polyMul_xor_right, ih]

theorem xorSum_eq_zero {n : Nat} {f : Nat → Byte} (h : ∀ l, l < n → f l = 0) : xorSum n f = 0 := by
  induction n with
  | zero => rfl
  | succ n ih => rw [xorSum_succ, ih fun l hl => h l (by omega), h n (by omega), BitVec.xor_self]; rfl

theorem xorSum_eq_single {n j : Nat} {f : Nat → Byte} (hj : j < n) (h : ∀ l, l < n → l ≠ j → f l = 0) :
    xorSum n f = f j := by
  induction n with
  | zero => cases hj
  | succ n ih =>
    rw [xorSum_succ]
    rcases Nat.lt_succ_iff_lt_or_eq.mp hj with hlt | rfl
    · rw [ih hlt fun l hl => h l (by omega), h n (by omega) (by omega)]
      exact BitVec.xor_zero
    · rw [xorSum_eq_zero fun l hl => h l (by omega) (by omega)]
      exact BitVec.zero_xor

/-! ## A matrix times a vector -/

/-- `A · u` for an `m × m` matrix, with the table-free product. -/
def mulVec (m : Nat) (A : Matrix) (u : Nat → Byte) : Nat → Byte := fun r =>
  xorSum m fun c => polyMul (A r c) (u c)

theorem gfMul_gen (a b : Byte) : gfMul (Tables.build Config.gen) a b = polyMul a b := gfMul_build isGenerator_gen a b

theorem gfDiv_one_ne_zero {b : Byte} (hb : b ≠ 0) : gfDiv (Tables.build Config.gen) 0x01 b ≠ 0 := by
  intro h
  have hone := gfDiv_build_polyMul isGenerator_gen 0x01 hb
  rw [h] at hone
  simp at hone

/-- A column of `mat_mul` is a matrix times a vector. -/
theorem matMul_eq_mulVec (m : Nat) (A B : Matrix) (i j : Nat) :
    matMul (Tables.build Config.gen) m A B i j = mulVec m A (fun l => B l j) i := by
  simp only [matMul, mulVec, gfMul_gen]

section MulVec
variable {m : Nat} {A B : Matrix} {r s j : Nat}

theorem mulVec_xor (u v : Nat → Byte) : mulVec m A (fun c => u c ^^^ v c) r = mulVec m A u r ^^^ mulVec m A v r := by
  simp only [mulVec, polyMul_xor_right, xorSum_xor]

theorem mulVec_zero : mulVec m A (fun _ => 0) r = 0 := xorSum_eq_zero fun _ _ => polyMul_zero _

theorem mulVec_congr {u v : Nat → Byte} (hA : ∀ c, c < m → A r c = B s c) (huv : ∀ c, c < m → u c = v c) :
    mulVec m A u r = mulVec m B v s :=
  xorSum_congr fun c hc => by rw [hA c hc, huv c hc]

/-- A row of the identity selects an entry. -/
theorem mulVec_of_identity_row (hj : j < m) (h : ∀ c, c < m → A r c = identity j c) (u : Nat → Byte) :
    mulVec m A u r = u j := by
  refine (xorSum_eq_single hj fun c hc hne => ?_).trans ?_
  · rw [h c hc, identity, if_neg hne.symm]
    exact zero_polyMul _
  · rw [h j hj, identity, if_pos rfl]
    exact one_polyMul _

/-- A column of the identity selects a column. -/
theorem mulVec_identity (hj : j < m) : mulVec m A (identity j) r = A r j := by
  refine (xorSum_eq_single hj fun c hc hne => ?_).trans ?_
  · rw [identity, if_neg hne.symm]
    exact polyMul_zero _
  · rw [identity, if_pos rfl]
    exact polyMul_one _

end MulVec

/-! ## Row operations on a matrix times a vector -/

section RowOperations
variable {m i j r : Nat} (g : Grid) (u : Nat → Byte)

theorem mulVec_swapRows (hr : r < m) :
    mulVec m (swapRows m i j g).at u r = mulVec m g.at u (Equiv.swap i j r) := by
  refine mulVec_congr (fun c hc => ?_) fun _ _ => rfl
  rw [swapRows_at m i j g hr hc, Equiv.swap_apply_def]
  split
  · rfl
  · split <;> rfl

theorem mulVec_scaleRow (v : Byte) (hr : r < m) :
    mulVec m (scaleRow (Tables.build Config.gen) m i v g).at u r =
      if r = i then polyMul v (mulVec m g.at u r) else mulVec m g.at u r := by
  split
  next hri =>
    rw [mulVec, mulVec, polyMul_xorSum]
    refine xorSum_congr fun c hc => ?_
    rw [scaleRow_at _ _ _ _ _ hr hc, if_pos hri, gfMul_gen, polyMul_comm _ v, polyMul_assoc]
  next hri => exact mulVec_congr (fun c hc => by rw [scaleRow_at _ _ _ _ _ hr hc, if_neg hri]) fun _ _ => rfl

theorem mulVec_clearColumn (f : Nat → Byte) (hr : r < m) :
    mulVec m (clearColumn (Tables.build Config.gen) m i f g).at u r =
      if r = i then mulVec m g.at u r else mulVec m g.at u r ^^^ polyMul (f r) (mulVec m g.at u i) := by
  split
  next hri => exact mulVec_congr (fun c hc => by rw [clearColumn_at _ _ _ _ _ hr hc, if_pos hri]) fun _ _ => rfl
  next hri =>
    rw [mulVec, mulVec, mulVec, polyMul_xorSum, ← xorSum_xor]
    refine xorSum_congr fun c hc => ?_
    rw [clearColumn_at _ _ _ _ _ hr hc, if_neg hri, gfMul_gen, polyMul_xor_left, polyMul_assoc]

end RowOperations

/-! ## The solutions of the system `W · u = C · v` -/

/-- `W · u = C · v` for a working copy `W` and a companion matrix `C`. -/
def Solves (m : Nat) (WC : Grid × Grid) (u v : Nat → Byte) : Prop :=
  ∀ r, r < m → mulVec m WC.1.at u r = mulVec m WC.2.at v r

section Solves
variable {m i j : Nat} {W C : Grid} {u v : Nat → Byte}

theorem solves_swapRows (hi : i < m) (hj : j < m) :
    Solves m (swapRows m i j W, swapRows m i j C) u v ↔ Solves m (W, C) u v := by
  have hswap {r : Nat} (hr : r < m) : Equiv.swap i j r < m := by
    rw [Equiv.swap_apply_def]
    split_ifs <;> assumption
  constructor
  · intro h r hr
    have hrow := h _ (hswap hr)
    rwa [mulVec_swapRows _ _ (hswap hr), mulVec_swapRows _ _ (hswap hr), Equiv.swap_apply_self] at hrow
  · intro h r hr
    rw [mulVec_swapRows _ _ hr, mulVec_swapRows _ _ hr]
    exact h _ (hswap hr)

theorem solves_scaleRow {a : Byte} (ha : a ≠ 0) :
    Solves m (scaleRow (Tables.build Config.gen) m i a W, scaleRow (Tables.build Config.gen) m i a C) u v ↔
      Solves m (W, C) u v := by
  refine forall₂_congr fun r hr => ?_
  rw [mulVec_scaleRow _ _ _ hr, mulVec_scaleRow _ _ _ hr]
  split
  · rw [polyMul_comm a, polyMul_comm a]
    exact ⟨polyMul_right_cancel ha, fun h => by rw [h]⟩
  · rfl

theorem solves_clearColumn (hi : i < m) (f : Nat → Byte) :
    Solves m (clearColumn (Tables.build Config.gen) m i f W, clearColumn (Tables.build Config.gen) m i f C) u v ↔
      Solves m (W, C) u v := by
  -- Row `i` is the same in both systems; given its equation, those of the other rows differ by a multiple of it.
  have hrow {r : Nat} (hr : r < m) (hpivot : mulVec m W.at u i = mulVec m C.at v i) :
      mulVec m (clearColumn (Tables.build Config.gen) m i f W).at u r =
          mulVec m (clearColumn (Tables.build Config.gen) m i f C).at v r ↔
        mulVec m W.at u r = mulVec m C.at v r := by
    rw [mulVec_clearColumn _ _ _ hr, mulVec_clearColumn _ _ _ hr, hpivot]
    split
    · rfl
    · exact BitVec.xor_left_inj _
  constructor
  · intro h
    have hpivot := h i hi
    rw [mulVec_clearColumn _ _ _ hi, mulVec_clearColumn _ _ _ hi, if_pos rfl, if_pos rfl] at hpivot
    exact fun r hr => (hrow hr hpivot).mp (h r hr)
  · exact fun h r hr => (hrow hr (h i hi)).mpr (h r hr)

end Solves

/-! ## The columns that are done -/

/-- The first `n` columns of `W` are those of the identity. -/
def Reduced (m n : Nat) (W : Grid) : Prop := ∀ r c, r < m → c < n → W.at r c = identity r c

section Reduced
variable {m i j : Nat} {W : Grid}

theorem Reduced.swapRows (hW : Reduced m i W) (hi : i < m) (hij : i ≤ j) (hj : j < m) :
    Reduced m i (swapRows m i j W) := by
  -- Rows `i` and `j` are both zero in the columns before `i`.
  have hbelow {r c : Nat} (hr : i ≤ r) (hc : c < i) : identity r c = 0 := if_neg (by omega)
  intro r c hr hc
  rw [swapRows_at m i j W hr (by omega)]
  split
  next hri => rw [hW j c hj hc, hbelow hij hc, hbelow hri.ge hc]
  · split
    next hrj => rw [hW i c hi hc, hbelow le_rfl hc, hbelow (hrj ▸ hij) hc]
    · exact hW r c hr hc

theorem Reduced.scaleRow (hW : Reduced m i W) (hi : i < m) (a : Byte) :
    Reduced m i (scaleRow (Tables.build Config.gen) m i a W) := by
  intro r c hr hc
  rw [scaleRow_at _ _ _ _ _ hr (by omega), hW r c hr hc]
  split
  · rw [identity, if_neg (by omega), gfMul_gen]
    exact zero_polyMul a
  · rfl

theorem scaleRow_pivot (hi : i < m) (hpivot : W.at i i ≠ 0) :
    (scaleRow (Tables.build Config.gen) m i (gfDiv (Tables.build Config.gen) 0x01 (W.at i i)) W).at i i = 0x01 := by
  rw [scaleRow_at _ _ _ _ _ hi hi, if_pos rfl, gfMul_gen, polyMul_comm]
  exact gfDiv_build_polyMul isGenerator_gen 0x01 hpivot

theorem Reduced.clearColumn (hW : Reduced m i W) (hi : i < m) (hpivot : W.at i i = 0x01) :
    Reduced m (i + 1) (clearColumn (Tables.build Config.gen) m i (fun r => W.at r i) W) := by
  intro r c hr hc
  rw [clearColumn_at _ _ _ _ _ hr (by omega), gfMul_gen]
  rcases Nat.lt_succ_iff_lt_or_eq.mp hc with hlt | rfl
  · have hzero : W.at i c = 0 := (hW i c hi hlt).trans (if_neg (by omega))
    simp [hW r c hr hlt, hzero]
  · rw [hpivot, identity]
    split
    next hrc => rw [hrc, hpivot]
    · simp

end Reduced

/-! ## The elimination -/

section Elimination
variable {m n : Nat} {WC WC' : Grid × Grid}

/-- One pivot finishes one column and keeps the solutions. -/
theorem pivotStep_some (hn : n < m) (h : pivotStep (Tables.build Config.gen) m n WC = some WC')
    (hW : Reduced m n WC.1) :
    Reduced m (n + 1) WC'.1 ∧ ∀ u v, Solves m WC' u v ↔ Solves m WC u v := by
  unfold pivotStep at h
  split at h
  · cases h
  next j hj =>
    obtain ⟨hnj, hjm, hne⟩ := pivotRow_some hn hj
    obtain rfl := Option.some.inj h
    have hpivot : (swapRows m n j WC.1).at n n ≠ 0 := by rwa [swapRows_at m n j WC.1 hn hn, if_pos rfl]
    refine ⟨((hW.swapRows hn hnj hjm).scaleRow hn _).clearColumn hn (scaleRow_pivot hn hpivot), fun u v => ?_⟩
    exact (solves_clearColumn hn _).trans ((solves_scaleRow (gfDiv_one_ne_zero hpivot)).trans (solves_swapRows hn hjm))

/-- The entries of column `n` above the diagonal, and zeros below them. -/
def columnAbove (W : Grid) (n : Nat) : Nat → Byte := fun c => if c < n then W.at c n else 0

/-- The columns that are done act as the identity. -/
theorem mulVec_columnAbove {W : Grid} (hW : Reduced m n W) {r : Nat} (hr : r < m) :
    mulVec m W.at (columnAbove W n) r = columnAbove W n r := by
  have hterm {c : Nat} (hc : c < m) :
      polyMul (W.at r c) (columnAbove W n c) = if r = c then columnAbove W n c else 0 := by
    by_cases hcn : c < n
    · rw [hW r c hr hcn, identity]
      split <;> simp
    · simp [columnAbove, hcn]
  refine (xorSum_eq_single hr fun c hc hne => ?_).trans ?_
  · rw [hterm hc, if_neg hne.symm]
  · rw [hterm hr, if_pos rfl]

/-- A column without a pivot is the combination of the columns before it that its own entries give, so the homogeneous
system has a solution other than zero. -/
theorem pivotStep_none (hn : n < m) (h : pivotStep (Tables.build Config.gen) m n WC = none) (hW : Reduced m n WC.1) :
    ∃ u : Nat → Byte, (∃ c, c < m ∧ u c ≠ 0) ∧ Solves m WC u fun _ => 0 := by
  have hpivot : pivotRow m n WC.1 = none := by
    unfold pivotStep at h
    split at h
    · assumption
    · cases h
  refine ⟨fun c => columnAbove WC.1 n c ^^^ identity n c, ⟨n, hn, ?_⟩, fun r hr => ?_⟩
  · simp [columnAbove, identity]
  · have hcol : WC.1.at r n = columnAbove WC.1 n r := by
      rcases Nat.lt_or_ge r n with hlt | hge
      · exact (if_pos hlt).symm
      · exact (pivotRow_none hpivot hge hr).trans (if_neg (by omega)).symm
    rw [mulVec_xor, mulVec_identity hn, hcol, mulVec_columnAbove hW hr, mulVec_zero, BitVec.xor_self]
    rfl

theorem pivots_some (hn : n ≤ m) (h : pivots (Tables.build Config.gen) m n WC = some WC') :
    Reduced m n WC'.1 ∧ ∀ u v, Solves m WC' u v ↔ Solves m WC u v := by
  induction n generalizing WC' with
  | zero =>
    obtain rfl := Option.some.inj h
    exact ⟨fun r c _ hc => absurd hc (Nat.not_lt_zero c), fun u v => Iff.rfl⟩
  | succ n ih =>
    rw [pivots] at h
    split at h
    · cases h
    next WC₁ h₁ =>
      obtain ⟨hred, hsol⟩ := ih (by omega) h₁
      obtain ⟨hred', hsol'⟩ := pivotStep_some (by omega) h hred
      exact ⟨hred', fun u v => (hsol' u v).trans (hsol u v)⟩

theorem pivots_none (hn : n ≤ m) (h : pivots (Tables.build Config.gen) m n WC = none) :
    ∃ u : Nat → Byte, (∃ c, c < m ∧ u c ≠ 0) ∧ Solves m WC u fun _ => 0 := by
  induction n with
  | zero => cases h
  | succ n ih =>
    rw [pivots] at h
    split at h
    next h₁ => exact ih (by omega) h₁
    next WC₁ h₁ =>
      obtain ⟨hred, hsol⟩ := pivots_some (by omega) h₁
      obtain ⟨u, hu, hzero⟩ := pivotStep_none (by omega) h hred
      exact ⟨u, hu, (hsol u _).mp hzero⟩

end Elimination

/-! ## What `mat_inv` answers (42_matrix_algebra.md R160) -/

section MatInv
variable {m : Nat} {M C : Matrix}

theorem solves_start (u v : Nat → Byte) :
    Solves m (Grid.tabulate m M, Grid.tabulate m identity) u v ↔ ∀ r, r < m → mulVec m M u r = v r := by
  refine forall₂_congr fun r hr => ?_
  have hM : mulVec m (Grid.tabulate m M).at u r = mulVec m M u r :=
    mulVec_congr (fun c hc => Grid.at_tabulate m M hr hc) fun _ _ => rfl
  have hI : mulVec m (Grid.tabulate m identity).at v r = v r :=
    mulVec_of_identity_row hr (fun c hc => Grid.at_tabulate m identity hr hc) v
  rw [hM, hI]

/-- What `mat_inv` returns solves the system of its matrix. -/
theorem matInv_some (h : matInv (Tables.build Config.gen) m M = some C) (u v : Nat → Byte) :
    (∀ r, r < m → mulVec m M u r = v r) ↔ ∀ r, r < m → u r = mulVec m C v r := by
  unfold matInv at h
  split at h
  · cases h
  next WC hWC =>
    obtain rfl := Option.some.inj h
    obtain ⟨hred, hsol⟩ := pivots_some le_rfl hWC
    rw [← solves_start, ← hsol]
    refine forall₂_congr fun r hr => ?_
    rw [mulVec_of_identity_row hr (fun c hc => hred r c hr hc) u]

/-- Where `mat_inv` fails, the columns of the matrix are linearly dependent. -/
theorem matInv_none (h : matInv (Tables.build Config.gen) m M = none) :
    ∃ u : Nat → Byte, (∃ c, c < m ∧ u c ≠ 0) ∧ ∀ r, r < m → mulVec m M u r = 0 := by
  unfold matInv at h
  split at h
  next hnone =>
    obtain ⟨u, hu, hsol⟩ := pivots_none le_rfl hnone
    exact ⟨u, hu, (solves_start u _).mp hsol⟩
  · cases h

/-- What `mat_inv` returns is a left inverse. -/
theorem productIsIdentity_left_of_matInv (h : matInv (Tables.build Config.gen) m M = some C) :
    productIsIdentity (Tables.build Config.gen) m C M := by
  intro i j hi hj
  have hcol : ∀ r, r < m → mulVec m M (identity j) r = M r j := fun r _ => mulVec_identity hj
  rw [matMul_eq_mulVec, ← (matInv_some h _ _).mp hcol i hi, identity, identity]
  simp only [eq_comm]

/-- What `mat_inv` returns is a right inverse. -/
theorem productIsIdentity_right_of_matInv (h : matInv (Tables.build Config.gen) m M = some C) :
    productIsIdentity (Tables.build Config.gen) m M C := by
  intro i j hi hj
  have hcol : ∀ r, r < m → C r j = mulVec m C (identity j) r := fun r _ => (mulVec_identity hj).symm
  rw [matMul_eq_mulVec, (matInv_some h _ _).mpr hcol i hi, identity, identity]
  simp only [eq_comm]

/-- A matrix with a row taken twice has no inverse. -/
theorem matInv_eq_none_of_equal_rows {l l' : Nat} (hl : l < m) (hl' : l' < m) (hne : l ≠ l')
    (hrow : ∀ c, c < m → M l c = M l' c) : matInv (Tables.build Config.gen) m M = none := by
  refine Option.eq_none_iff_forall_ne_some.mpr fun C hC => ?_
  have hright := productIsIdentity_right_of_matInv hC
  have hsame : identity l l = identity l' l := by
    rw [← hright l l hl hl, ← hright l' l hl' hl, matMul_eq_mulVec, matMul_eq_mulVec]
    exact mulVec_congr hrow fun _ _ => rfl
  rw [identity, identity, if_pos rfl, if_neg hne.symm] at hsame
  cases hsame

end MatInv

end Sys2Proof.Machine
end

section
/-! The Cauchy block: the bytes are a field, and there a Cauchy system has only the solution zero; so any `k` distinct
rows of `build(n, k)` have an inverse (41_generator_matrix.md R143, R145). GENMAT writes these rows. -/

namespace Sys2Proof.Machine

/-! ## The field of the bytes -/

/-- The bytes without the modular arithmetic that `BitVec` gives them. -/
def FieldByte : Type := Byte

/-- XOR and the table-free product make the bytes a field (40_field_arithmetic.md R126, R129). -/
@[reducible] def FieldByte.field : Field FieldByte :=
  letI : Add FieldByte := ⟨fun a b : Byte => a ^^^ b⟩
  letI : Mul FieldByte := ⟨polyMul⟩
  letI : Neg FieldByte := ⟨id⟩
  letI : Inv FieldByte := ⟨gfDiv (Tables.build Config.gen) 0x01⟩
  letI : Zero FieldByte := ⟨0#8⟩
  letI : One FieldByte := ⟨1#8⟩
  Field.ofMinimalAxioms FieldByte
    (add_assoc := BitVec.xor_assoc)
    (zero_add := fun _ => BitVec.zero_xor)
    (neg_add_cancel := fun _ => BitVec.xor_self)
    (mul_assoc := polyMul_assoc)
    (mul_comm := polyMul_comm)
    (one_mul := one_polyMul)
    (mul_inv_cancel := fun a ha => (polyMul_comm a _).trans (gfDiv_build_polyMul isGenerator_gen 0x01 ha))
    (inv_zero := rfl)
    (left_distrib := polyMul_xor_right)
    (exists_pair_ne := ⟨0#8, 1#8, show (0 : Byte) ≠ 1 by decide⟩)

/-- `φ` takes the bytes, with XOR and the table-free product, into the field `F`. -/
structure EmbedsInField (F : Type) [Field F] (φ : Byte → F) : Prop where
  injective : Function.Injective φ
  xor : ∀ a b, φ (a ^^^ b) = φ a + φ b
  mul : ∀ a b, φ (polyMul a b) = φ a * φ b

theorem exists_embedsInField : ∃ (F : Type) (_ : Field F) (φ : Byte → F), EmbedsInField F φ :=
  letI := FieldByte.field
  ⟨FieldByte, FieldByte.field, id, Function.injective_id, fun _ _ => rfl, fun _ _ => rfl⟩

namespace EmbedsInField

variable {F : Type} [Field F] {φ : Byte → F} (hφ : EmbedsInField F φ)
include hφ

theorem map_zero : φ 0 = 0 := by
  have h := hφ.xor 0 0
  rwa [BitVec.xor_self, BitVec.ofNat_eq_ofNat, left_eq_add] at h

theorem map_eq_zero {a : Byte} : φ a = 0 ↔ a = 0 := by
  rw [← hφ.map_zero, hφ.injective.eq_iff]

theorem map_one : φ 1 = 1 := by
  have h := hφ.mul 1 1
  have hne : φ 1 ≠ 0 := fun h0 => absurd (hφ.map_eq_zero.mp h0) (by decide)
  exact (left_eq_mul₀ hne).mp ((congrArg φ (polyMul_one 1)).symm.trans h)

/-- Subtraction is XOR. -/
theorem map_sub (a b : Byte) : φ (a ^^^ b) = φ a - φ b := by
  rw [eq_sub_iff_add_eq, ← hφ.xor, BitVec.xor_assoc, BitVec.xor_self, BitVec.xor_zero]

theorem map_gfDiv_one {b : Byte} (hb : b ≠ 0) : φ (gfDiv (Tables.build Config.gen) 0x01 b) = (φ b)⁻¹ := by
  refine eq_inv_of_mul_eq_one_left ?_
  rw [← hφ.mul, gfDiv_build_polyMul isGenerator_gen 0x01 hb, hφ.map_one]

theorem map_xorSum (n : Nat) (f : Nat → Byte) : φ (xorSum n f) = ∑ l ∈ Finset.range n, φ (f l) := by
  induction n with
  | zero => exact hφ.map_zero
  | succ n ih => rw [xorSum_succ, hφ.xor, ih, Finset.sum_range_succ]

end EmbedsInField

/-! ## Cauchy systems -/

section Cauchy
variable {F ι κ : Type} [Field F] [DecidableEq ι] {J : Finset ι} {R : Finset κ} {y w : ι → F}

/-- The polynomial of degree below the number of nodes `y i` that is `∑ w i / (X - y i)` over the common denominator. -/
noncomputable def cauchyNumerator (J : Finset ι) (y w : ι → F) : Polynomial F :=
  Lagrange.interpolate J y fun i => (Lagrange.nodalWeight J y i)⁻¹ * w i

theorem eval_cauchyNumerator (hy : Set.InjOn y J) {x : F} (hx : ∀ i ∈ J, x ≠ y i) :
    (cauchyNumerator J y w).eval x = (Lagrange.nodal J y).eval x * ∑ i ∈ J, (x - y i)⁻¹ * w i := by
  rw [cauchyNumerator, Lagrange.eval_interpolate_not_at_node _ hx]
  congr 1
  refine Finset.sum_congr rfl fun i hi => ?_
  have hweight := Lagrange.nodalWeight_ne_zero hy hi
  field_simp

/-- A Cauchy system with at least as many equations as unknowns has only the solution zero: the numerator has a root at
every point `x r`, too many for its degree. -/
theorem eq_zero_of_cauchy_system {x : κ → F} (hx : Set.InjOn x R) (hy : Set.InjOn y J)
    (hxy : ∀ r ∈ R, ∀ i ∈ J, x r ≠ y i) (hcard : J.card ≤ R.card)
    (hsum : ∀ r ∈ R, ∑ i ∈ J, (x r - y i)⁻¹ * w i = 0) {j : ι} (hj : j ∈ J) : w j = 0 := by
  have hroot : ∀ r ∈ R, (cauchyNumerator J y w).eval (x r) = 0 := fun r hr => by
    rw [eval_cauchyNumerator hy (hxy r hr), hsum r hr, mul_zero]
  have hdegree : (cauchyNumerator J y w).degree < R.card :=
    (Lagrange.degree_interpolate_lt _ hy).trans_le (Nat.cast_le.mpr hcard)
  have hzero := Polynomial.eq_zero_of_degree_lt_of_eval_index_eq_zero _ hx hdegree hroot
  have hvalue : (cauchyNumerator J y w).eval (y j) = (Lagrange.nodalWeight J y j)⁻¹ * w j :=
    Lagrange.eval_interpolate_at_node _ hy hj
  rw [hzero, Polynomial.eval_zero, zero_eq_mul] at hvalue
  exact hvalue.resolve_left (inv_ne_zero (Lagrange.nodalWeight_ne_zero hy hj))

end Cauchy

/-! ## Entries of the generator matrix (41_generator_matrix.md R141, R142) -/

/-- The 256 index values differ, the value 0 of index 255 included. -/
theorem indexValue_inj {i j : Nat} (hi : i < 256) (hj : j < 256) (h : indexValue i = indexValue j) : i = j := by
  have hnat := congrArg BitVec.toNat h
  simp only [indexValue, BitVec.toNat_ofNat] at hnat
  omega

theorem indexValue_xor_ne_zero {i j : Nat} (hi : i < 256) (hj : j < 256) (hne : i ≠ j) :
    indexValue i ^^^ indexValue j ≠ 0 := fun h => hne (indexValue_inj hi hj (BitVec.xor_eq_zero_iff.mp h))

theorem ofNat_mod_256_eq_indexValue (i : Nat) : BitVec.ofNat 8 ((i + 1) % 256) = indexValue i :=
  BitVec.eq_of_toNat_eq (by simp [indexValue])

theorem build_of_lt {t : Tables} {k i : Nat} (hi : i < k) : build t k i = identity i := by
  funext j
  rw [build, if_pos hi, identity]

theorem build_of_ge {t : Tables} {k i : Nat} (hi : k ≤ i) (j : Nat) :
    build t k i j = gfDiv t 0x01 (indexValue i ^^^ indexValue j) := if_neg (Nat.not_lt_of_le hi)

/-! ## Rows of the generator matrix -/

/-- The rows `e 0, e 1, …` of the generator matrix with `k` columns. -/
def selectRows (k : Nat) (e : Nat → Nat) : Matrix := fun l j => build (Tables.build Config.gen) k (e l) j

section SelectRows
variable {n k : Nat} {e : Nat → Nat} {u : Nat → Byte}

/-- The chosen rows of the Cauchy block. -/
def cauchyRows (k : Nat) (e : Nat → Nat) : Finset Nat := {l ∈ Finset.range k | k ≤ e l}

/-- The columns whose row of the identity block is not chosen. -/
def freeColumns (k : Nat) (e : Nat → Nat) : Finset Nat := {j ∈ Finset.range k | ∀ l < k, e l ≠ j}

/-- Distinct rows of the identity block settle one column each. -/
theorem card_freeColumns_le (he : Set.InjOn e (Finset.range k)) : (freeColumns k e).card ≤ (cauchyRows k e).card := by
  have hrows := Finset.card_filter_add_card_filter_not (s := Finset.range k) fun l => k ≤ e l
  have hcols := Finset.card_filter_add_card_filter_not (s := Finset.range k) fun j => ∀ l < k, e l ≠ j
  have hle : {l ∈ Finset.range k | ¬k ≤ e l}.card ≤ {j ∈ Finset.range k | ¬∀ l < k, e l ≠ j}.card := by
    refine Finset.card_le_card_of_injOn e (fun l hl => ?_) (he.mono (Finset.filter_subset _ _))
    obtain ⟨hlk, hel⟩ := Finset.mem_filter.mp hl
    exact Finset.mem_filter.mpr
      ⟨Finset.mem_range.mpr (Nat.lt_of_not_le hel), fun h => h l (Finset.mem_range.mp hlk) rfl⟩
  rw [freeColumns, cauchyRows]
  omega

/-- A vector that the chosen rows take to zero is zero where the row of the identity block is chosen. -/
theorem eq_zero_of_not_mem_freeColumns (hker : ∀ l < k, mulVec k (selectRows k e) u l = 0) {j : Nat} (hj : j < k)
    (hfree : j ∉ freeColumns k e) : u j = 0 := by
  have hchosen : ∃ l < k, e l = j := by simpa [freeColumns, hj] using hfree
  obtain ⟨l, hl, rfl⟩ := hchosen
  rw [← hker l hl]
  exact (mulVec_of_identity_row hj (fun c _ => congrFun (build_of_lt hj) c) u).symm

/-- An equation of the Cauchy block in a field, over the columns that no row of the identity block settles. -/
theorem EmbedsInField.cauchy_equation {F : Type} [Field F] {φ : Byte → F} (hφ : EmbedsInField F φ) (hn : n ≤ 256)
    (hrange : ∀ l < k, e l < n) (hker : ∀ l < k, mulVec k (selectRows k e) u l = 0) {r : Nat}
    (hr : r ∈ cauchyRows k e) :
    ∑ j ∈ freeColumns k e, (φ (indexValue (e r)) - φ (indexValue j))⁻¹ * φ (u j) = 0 := by
  obtain ⟨hrk, hcauchy⟩ := Finset.mem_filter.mp hr
  have hrn := hrange r (Finset.mem_range.mp hrk)
  have hequation := congrArg φ (hker r (Finset.mem_range.mp hrk))
  rw [mulVec, hφ.map_xorSum, hφ.map_zero] at hequation
  rw [← hequation]
  refine Finset.sum_subset_zero_on_sdiff (Finset.filter_subset _ _) (fun j hj => ?_) fun j hj => ?_
  · obtain ⟨hjk, hfree⟩ := Finset.mem_sdiff.mp hj
    rw [eq_zero_of_not_mem_freeColumns hker (Finset.mem_range.mp hjk) hfree, hφ.mul, hφ.map_zero, mul_zero]
  · have hjk := Finset.mem_range.mp (Finset.mem_filter.mp hj).1
    have hne := indexValue_xor_ne_zero (i := e r) (j := j) (by omega) (by omega) (by omega)
    rw [selectRows, build_of_ge hcauchy, hφ.mul, hφ.map_gfDiv_one hne, hφ.map_sub]

/-- The columns of `k` distinct rows of the generator matrix are independent. -/
theorem eq_zero_of_mulVec_selectRows (hk : k ≤ n) (hn : n ≤ 256) (hrange : ∀ l < k, e l < n)
    (he : Set.InjOn e (Finset.range k)) (hker : ∀ l < k, mulVec k (selectRows k e) u l = 0) {j : Nat} (hj : j < k) :
    u j = 0 := by
  by_cases hfree : j ∈ freeColumns k e
  · obtain ⟨F, _, φ, hφ⟩ := exists_embedsInField
    have hrow {r : Nat} (hr : r ∈ cauchyRows k e) : r < k ∧ k ≤ e r := by simpa [cauchyRows] using hr
    have hcol {i : Nat} (hi : i ∈ freeColumns k e) : i < k := Finset.mem_range.mp (Finset.mem_filter.mp hi).1
    have hindex {a b : Nat} (ha : a < n) (hb : b < n) (h : φ (indexValue a) = φ (indexValue b)) : a = b :=
      indexValue_inj (by omega) (by omega) (hφ.injective h)
    refine hφ.map_eq_zero.mp (eq_zero_of_cauchy_system (R := cauchyRows k e) (x := fun r => φ (indexValue (e r)))
      (y := fun i => φ (indexValue i)) (w := fun i => φ (u i)) (fun r hr r' hr' h => ?_) (fun i hi i' hi' h => ?_)
      (fun r hr i hi h => ?_) (card_freeColumns_le he) (fun r hr => hφ.cauchy_equation hn hrange hker hr) hfree)
    · have hr := (hrow hr).1
      have hr' := (hrow hr').1
      exact he (Finset.mem_range.mpr hr) (Finset.mem_range.mpr hr') (hindex (hrange r hr) (hrange r' hr') h)
    · exact hindex ((hcol hi).trans_le hk) ((hcol hi').trans_le hk) h
    · obtain ⟨hrk, hcauchy⟩ := hrow hr
      have hsame := hindex (hrange r hrk) ((hcol hi).trans_le hk) h
      have := hcol hi
      omega
  · exact eq_zero_of_not_mem_freeColumns hker hj hfree

end SelectRows

/-! ## A matrix in a bank (20_memory.md R66) -/

section BankMatrix
variable (s : State) (d : BitVec 2) (rows cols : Nat) (f : Matrix)

theorem stored_rowMajor_entry {i j : Nat} (hi : i < rows) (hj : j < cols) :
    (s.memWriteMany (.mat d) 0 (rowMajor rows cols f)).stored (.mat d) (i * cols + j) = some (f i j) := by
  have hentry := rowMajor_entry rows cols f hi hj
  have hlt := (List.getElem?_eq_some_iff.mp hentry).1
  rw [State.stored_memWriteMany, if_pos ⟨rfl, Nat.zero_le _, by rwa [Nat.zero_add]⟩, Nat.sub_zero, hentry]

theorem stored_rowMajor_beyond {o : Nat} (ho : rows * cols ≤ o) :
    (s.memWriteMany (.mat d) 0 (rowMajor rows cols f)).stored (.mat d) o = s.stored (.mat d) o := by
  rw [State.stored_memWriteMany, if_neg]
  rintro ⟨-, -, hlt⟩
  rw [rowMajor_length] at hlt
  omega

theorem stored_rowMajor_other_bank {b : BitVec 2} (hb : b ≠ d) (o : Nat) :
    (s.memWriteMany (.mat d) 0 (rowMajor rows cols f)).stored (.mat b) o = s.stored (.mat b) o := by
  rw [State.stored_memWriteMany, if_neg]
  rintro ⟨hsp, -⟩
  exact hb (Space.mat.inj hsp)

end BankMatrix

/-! ## GENMAT (41_generator_matrix.md R146) -/

theorem exec_genmat_of_le {n k : Nat} (h : k ≤ n) (d : BitVec 2) (s : State) :
    exec (.genmat d n k) s =
      .next ((s.memWriteMany (.mat d) 0 (rowMajor n k (build s.tables k))).respond 0) := by
  rw [exec, execGenmat, if_neg (Nat.not_lt_of_le h), complete_ok]

theorem exec_genmat_of_lt {n k : Nat} (h : n < k) (d : BitVec 2) (s : State) :
    exec (.genmat d n k) s = .next (s.raise .invalidParameters) := by
  rw [exec, execGenmat, if_pos h, complete_error]

end Sys2Proof.Machine

namespace Sys2Proof

/-- The byte that holds a dimension minus one (30_encoding.md R92). -/
@[simp] theorem dimField_toNat_add_one (b : Byte) : dimField (b.toNat + 1) = b := by
  rw [dimField, Nat.add_sub_cancel, BitVec.ofNat_toNat, BitVec.setWidth_eq]

theorem dimOk_toNat_add_one (b : Byte) : dimOk (b.toNat + 1) := by
  have := b.isLt
  omega

end Sys2Proof

namespace Sys2Proof.Proofs

open Sys2Proof.Machine

/-- Settles O26: the elimination fails only where a combination of the columns is zero, and distinct rows allow none:
the identity rows settle their columns, and what is left is a Cauchy system. With a row taken twice there is no right
inverse. -/
theorem anyDistinctRowsInvert : Obligations.AnyDistinctRowsInvert := by
  intro n k e _ hk hn hrange
  refine ⟨fun hdistinct => ?_, fun l m hl hm hsame hne =>
    matInv_eq_none_of_equal_rows hl hm hne fun c _ => by rw [hsame]⟩
  have he : Set.InjOn e (Finset.range k) := fun l hl m hm =>
    hdistinct l m (Finset.mem_range.mp hl) (Finset.mem_range.mp hm)
  cases hV : matInv (Tables.build Config.gen) k (selectRows k e) with
  | some V => exact ⟨V, hV, productIsIdentity_left_of_matInv hV⟩
  | none =>
    obtain ⟨u, ⟨c, hc, hne⟩, hker⟩ := matInv_none hV
    exact absurd (eq_zero_of_mulVec_selectRows hk hn hrange he hker hc) hne

/-- Settles O25: index values of different indices differ, also at `n = 256`. -/
theorem cauchyEntriesAreInverses : Obligations.CauchyEntriesAreInverses := by
  intro n k i j _ hn hki hi hj
  have hdivisor := indexValue_xor_ne_zero (i := i) (j := j) (by omega) (by omega) (by omega)
  rw [build_of_ge hki, gfMul_gen]
  exact ⟨hdivisor, gfDiv_build_polyMul isGenerator_gen 0x01 hdivisor, gfDiv_one_ne_zero hdivisor⟩

/-- Settles O24, by the layout of a matrix in a bank. -/
theorem genmatWritesGenerator : Obligations.GenmatWritesGenerator := by
  refine ⟨fun d n1 k1 => ?_, fun d n k s _ _ _ _ => ⟨fun hkn => ?_, fun hnk => ?_⟩⟩
  · have hwf : (Instr.genmat d (n1.toNat + 1) (k1.toNat + 1)).wellFormed = true := by
      simp only [Instr.wellFormed, Bool.and_eq_true, decide_eq_true_eq]
      exact ⟨dimOk_toNat_add_one n1, dimOk_toNat_add_one k1⟩
    have hword := decode_encode hwf
    rwa [encode, encodeFields, dimField_toNat_add_one, dimField_toNat_add_one] at hword
  · refine ⟨_, exec_genmat_of_le hkn d s, rfl, fun i j hi hj => ?_, fun o ho => ?_, fun b hb o => ?_⟩
    · rw [State.respond_stored, stored_rowMajor_entry s d n k _ hi hj, ofNat_mod_256_eq_indexValue,
        ofNat_mod_256_eq_indexValue, build]
    · rw [State.respond_stored, stored_rowMajor_beyond s d n k _ ho]
    · rw [State.respond_stored, stored_rowMajor_other_bank s d n k _ hb]
  · exact exec_genmat_of_lt hnk d s

end Sys2Proof.Proofs
end

section
/-! Matrix algebra: the product of matrices acts as the composition of their actions, linearly dependent rows leave no right
inverse, and so `mat_inv` fails exactly there (42_matrix_algebra.md R163, R164). MATMUL and MATINV write a whole matrix to a
bank (R158, R166). -/

namespace Sys2Proof.Machine

/-! ## The product of matrices (42_matrix_algebra.md R156) -/

theorem xorSum_polyMul (n : Nat) (f : Nat → Byte) (a : Byte) :
    polyMul (xorSum n f) a = xorSum n fun l => polyMul (f l) a := by
  simp only [polyMul_comm _ a, polyMul_xorSum]

theorem xorSum_comm (n m : Nat) (f : Nat → Nat → Byte) :
    (xorSum n fun i => xorSum m fun j => f i j) = xorSum m fun j => xorSum n fun i => f i j := by
  induction n with
  | zero => exact (xorSum_eq_zero fun _ _ => rfl).symm
  | succ n ih => simp only [xorSum_succ, xorSum_xor, ih]

/-- A product acts on a vector as its factors do one after the other. -/
theorem mulVec_matMul (m : Nat) (A B : Matrix) (u : Nat → Byte) (r : Nat) :
    mulVec m (matMul (Tables.build Config.gen) m A B) u r = mulVec m A (mulVec m B u) r := by
  simp only [mulVec, matMul, gfMul_gen, xorSum_polyMul, polyMul_xorSum, polyMul_assoc]
  exact xorSum_comm m m _

/-- Rows and columns exchanged. -/
def transposed (A : Matrix) : Matrix := fun i j => A j i

theorem transposed_matMul (m : Nat) (A B : Matrix) :
    transposed (matMul (Tables.build Config.gen) m A B) =
      matMul (Tables.build Config.gen) m (transposed B) (transposed A) := by
  funext i j
  simp only [transposed, matMul, gfMul_gen, polyMul_comm]

/-! ## Linearly dependent rows (42_matrix_algebra.md R164) -/

/-- A combination of the rows of the `m × m` matrix `M`, with coefficients not all zero, is zero. -/
def RowsDependent (m : Nat) (M : Matrix) : Prop :=
  ∃ c : Nat → Byte, (∃ l, l < m ∧ c l ≠ 0) ∧ ∀ j, j < m → mulVec m (transposed M) c j = 0

theorem rowsDependent_iff {m : Nat} {M : Matrix} :
    RowsDependent m M ↔ ∃ c : Nat → Byte, (∃ l, l < m ∧ c l ≠ 0) ∧
      ∀ j, j < m → xorSum m (fun l => gfMul (Tables.build Config.gen) (c l) (M l j)) = 0 := by
  simp only [RowsDependent, mulVec, transposed, gfMul_gen, polyMul_comm]

section Inverse
variable {m : Nat} {M : Matrix}

/-- A right inverse recovers the coefficients of a combination of the rows, so they are zero where the combination is. -/
theorem RowsDependent.not_exists_productIsIdentity (h : RowsDependent m M) :
    ¬∃ A, productIsIdentity (Tables.build Config.gen) m M A := by
  rintro ⟨A, hA⟩
  obtain ⟨c, ⟨i, hi, hne⟩, hzero⟩ := h
  have hid : ∀ l, l < m → transposed (matMul (Tables.build Config.gen) m M A) i l = identity i l := fun l hl => by
    rw [transposed, hA l i hl hi, identity, identity]
    simp only [eq_comm]
  refine hne ?_
  calc c i
    _ = mulVec m (transposed (matMul (Tables.build Config.gen) m M A)) c i := (mulVec_of_identity_row hi hid c).symm
    _ = mulVec m (transposed A) (mulVec m (transposed M) c) i := by rw [transposed_matMul, mulVec_matMul]
    _ = mulVec m (transposed A) (fun _ => 0) i := mulVec_congr (fun _ _ => rfl) hzero
    _ = 0 := mulVec_zero

theorem matInv_eq_none_of_not_exists (h : ¬∃ A, productIsIdentity (Tables.build Config.gen) m M A) :
    matInv (Tables.build Config.gen) m M = none :=
  Option.eq_none_iff_forall_ne_some.mpr fun C hC => h ⟨C, productIsIdentity_right_of_matInv hC⟩

/-- Where `mat_inv` fails, the rows are dependent. The elimination shows a combination of the columns that is zero; so the
transposed matrix has dependent rows and no inverse, the elimination fails on it too, and its columns are the rows. -/
theorem rowsDependent_of_matInv_eq_none (h : matInv (Tables.build Config.gen) m M = none) : RowsDependent m M := by
  have hcolumns : RowsDependent m (transposed M) := matInv_none h
  exact matInv_none (matInv_eq_none_of_not_exists hcolumns.not_exists_productIsIdentity)

theorem matInv_eq_none_iff_not_exists :
    matInv (Tables.build Config.gen) m M = none ↔ ¬∃ A, productIsIdentity (Tables.build Config.gen) m M A :=
  ⟨fun h => (rowsDependent_of_matInv_eq_none h).not_exists_productIsIdentity, matInv_eq_none_of_not_exists⟩

theorem matInv_eq_none_iff_rowsDependent : matInv (Tables.build Config.gen) m M = none ↔ RowsDependent m M :=
  ⟨rowsDependent_of_matInv_eq_none, fun h => matInv_eq_none_of_not_exists h.not_exists_productIsIdentity⟩

theorem exists_matInv_eq_some (h : ∃ A, productIsIdentity (Tables.build Config.gen) m M A) :
    ∃ C, matInv (Tables.build Config.gen) m M = some C :=
  Option.ne_none_iff_exists'.mp fun hnone => matInv_eq_none_iff_not_exists.mp hnone h

end Inverse

/-! ## What MATMUL and MATINV write (42_matrix_algebra.md R158, R166) -/

theorem exec_matmul (d a b : BitVec 2) (m p q : Nat) (s : State) :
    exec (.matmul d a b m p q) s =
      .next ((s.memWriteMany (.mat d) 0
        (rowMajor m q (matMul s.tables p (bankMatrix s a p) (bankMatrix s b q)))).respond 0) := by
  rw [exec, execMatmul, complete_ok]

theorem exec_matinv_of_some {d src : BitVec 2} {m : Nat} {s : State} {C : Matrix}
    (h : matInv s.tables m (bankMatrix s src m) = some C) :
    exec (.matinv d src m) s = .next ((s.memWriteMany (.mat d) 0 (rowMajor m m C)).respond 0) := by
  rw [exec, execMatinv, h, complete_ok]

theorem exec_matinv_of_none {d src : BitVec 2} {m : Nat} {s : State}
    (h : matInv s.tables m (bankMatrix s src m) = none) :
    exec (.matinv d src m) s = .next (s.raise .singularMatrix) := by
  rw [exec, execMatinv, h, complete_error]

/-- A matrix written to a bank is all that a command which writes it and answers 0 changes. -/
theorem writes_rowMajor {s t : State} {d : BitVec 2} {rows cols : Nat} {f : Matrix}
    (ht : t = (s.memWriteMany (.mat d) 0 (rowMajor rows cols f)).respond 0) :
    t = { s with mat := t.mat, rsp := some ⟨.ok, 0⟩ } ∧
      (∀ i j, i < rows → j < cols → t.stored (.mat d) (i * cols + j) = some (f i j)) ∧
      (∀ o, rows * cols ≤ o → t.stored (.mat d) o = s.stored (.mat d) o) ∧
      (∀ b, b ≠ d → ∀ o, t.stored (.mat b) o = s.stored (.mat b) o) := by
  subst ht
  refine ⟨rfl, fun i j hi hj => ?_, fun o ho => ?_, fun b hb o => ?_⟩
  · rw [State.respond_stored, stored_rowMajor_entry s d rows cols f hi hj]
  · rw [State.respond_stored, stored_rowMajor_beyond s d rows cols f ho]
  · rw [State.respond_stored, stored_rowMajor_other_bank s d rows cols f hb]

end Sys2Proof.Machine

namespace Sys2Proof.Proofs

open Sys2Proof.Machine

/-- Settles O29: dependent rows leave no right inverse, and the elimination fails only where the rows are dependent, by the
same argument for the transposed matrix. -/
theorem matinvSingularExactlyWithoutInverse : Obligations.MatinvSingularExactlyWithoutInverse := fun _ _ =>
  ⟨matInv_eq_none_iff_not_exists, matInv_eq_none_iff_rowsDependent.trans rowsDependent_iff, fun _ hC =>
    ⟨productIsIdentity_right_of_matInv hC, productIsIdentity_left_of_matInv hC⟩⟩

/-- Settles O27: both sources are read in the state before the write. -/
theorem matmulWritesProduct : Obligations.MatmulWritesProduct := by
  refine ⟨fun d a b m1 p1 q1 => ?_, fun d a b m p q s _ _ _ _ _ _ =>
    ⟨_, exec_matmul d a b m p q s, writes_rowMajor rfl⟩⟩
  have hwf : (Instr.matmul d a b (m1.toNat + 1) (p1.toNat + 1) (q1.toNat + 1)).wellFormed = true := by
    simp only [Instr.wellFormed, Bool.and_eq_true, decide_eq_true_eq]
    exact ⟨⟨dimOk_toNat_add_one m1, dimOk_toNat_add_one p1⟩, dimOk_toNat_add_one q1⟩
  have hword := decode_encode hwf
  rwa [encode, encodeFields, dimField_toNat_add_one, dimField_toNat_add_one, dimField_toNat_add_one] at hword

/-- Settles O28: where `mat_inv` does not fail, what it returns is an inverse on both sides. -/
theorem matinvWritesInverse : Obligations.MatinvWritesInverse := by
  refine ⟨fun d src m1 => ?_, fun d src m s hs _ _ => ⟨fun hinv => ?_, fun hno => ?_⟩⟩
  · have hwf : (Instr.matinv d src (m1.toNat + 1)).wellFormed = true := by
      simp only [Instr.wellFormed, decide_eq_true_eq]
      exact dimOk_toNat_add_one m1
    have hword := decode_encode hwf
    rwa [encode, encodeFields, dimField_toNat_add_one] at hword
  · rw [hs] at hinv
    obtain ⟨C, hC⟩ := exists_matInv_eq_some hinv
    obtain ⟨hframe, hwritten⟩ := writes_rowMajor rfl
    refine ⟨_, C, exec_matinv_of_some (hs ▸ hC), hframe, ?_, ?_, hwritten⟩
    · rw [hs]
      exact productIsIdentity_right_of_matInv hC
    · rw [hs]
      exact productIsIdentity_left_of_matInv hC
  · rw [hs] at hno
    exact exec_matinv_of_none (hs ▸ matInv_eq_none_of_not_exists hno)

end Sys2Proof.Proofs
end

section
/-! The scrambler: one step in exact arithmetic, the keystream by position, and the stream of SCRBYTE commands as the
transform of 43_scrambler.md R183. -/

namespace Sys2Proof.Machine

/-! ## The state step and the keystream -/

/-- The step wraps as 43_scrambler.md R181 says: the exact value modulo `2^32`. -/
theorem lcg_toNat (s : Word) : (lcg s).toNat = (s.toNat * 1664525 + 1013904223) % 2 ^ 32 := by
  have hmul : Config.scrMul.toNat = 1664525 := by decide
  have hadd : Config.scrAdd.toNat = 1013904223 := by decide
  rw [lcg, BitVec.toNat_add, BitVec.toNat_mul, hmul, hadd, Nat.mod_add_mod]

theorem lcg_eq_ofNat (s : Word) : lcg s = BitVec.ofNat 32 ((s.toNat * 1664525 + 1013904223) % 2 ^ 32) := by
  rw [← lcg_toNat, BitVec.ofNat_toNat, BitVec.setWidth_eq]

theorem lcg_setWidth_eq_ofNat (s : Word) :
    (lcg s).setWidth 8 = BitVec.ofNat 8 ((s.toNat * 1664525 + 1013904223) % 256) := by
  refine BitVec.eq_of_toNat_eq ?_
  rw [BitVec.toNat_setWidth, lcg_toNat, BitVec.toNat_ofNat, Nat.mod_mod_of_dvd _ (by decide), Nat.mod_mod]

/-- Steps from the state after one step. -/
theorem lcgIter_lcg (n : Nat) (s : Word) : lcgIter n (lcg s) = lcgIter (n + 1) s := by
  induction n with
  | zero => rw [lcgIter, lcgIter, lcgIter]
  | succ n ih => exact congrArg lcg ih

theorem ks_zero (key : Word) : ks key 0 = (lcg key).setWidth 8 := by rw [ks, lcgIter, lcgIter]

theorem ks_lcg (key : Word) (t : Nat) : ks (lcg key) t = ks key (t + 1) :=
  congrArg (BitVec.setWidth 8) (lcgIter_lcg (t + 1) key)

/-- Byte by byte with an updated state, or by position with the keystream (43_scrambler.md R182, R183). -/
theorem transform_eq_mapIdx (x : List Byte) (key : Word) : transform x key = x.mapIdx fun t b => b ^^^ ks key t := by
  induction x generalizing key with
  | nil => rfl
  | cons b bs ih => simp only [transform, ih, List.mapIdx_cons, ks_lcg, ks_zero]

/-! ## The two commands -/

theorem State.setReg_scr_respond (s : State) (v d : Word) :
    (s.setReg .scr v).respond d = { s with scr := v, rsp := some ⟨.ok, d⟩ } := rfl

theorem exec_scrseed (key : Word) (s : State) :
    exec (.scrseed key) s = .next { s with scr := key, rsp := some ⟨.ok, 0⟩ } := by
  rw [exec, execScrseed, complete_ok, State.setReg_scr_respond]

theorem exec_scrbyte (x : Byte) (s : State) :
    exec (.scrbyte x) s = .next { s with
      scr := lcg s.scr
      rsp := some ⟨.ok, (x ^^^ (lcg s.scr).setWidth 8).setWidth 32⟩ } := by
  rw [exec, execScrbyte, complete_ok, State.setReg_scr_respond]

/-- `SCRBYTE` in exact arithmetic. -/
theorem exec_scrbyte_eq_ofNat (x : Byte) (s : State) :
    exec (.scrbyte x) s = .next { s with
      scr := BitVec.ofNat 32 ((s.scr.toNat * 1664525 + 1013904223) % 2 ^ 32)
      rsp := some ⟨.ok, (x ^^^ BitVec.ofNat 8 ((s.scr.toNat * 1664525 + 1013904223) % 256)).setWidth 32⟩ } := by
  rw [exec_scrbyte, lcg_setWidth_eq_ofNat, lcg_eq_ofNat]

/-! ## The stream -/

theorem executeAll_cons_snd {i : Instr} {is : List Instr} {s t : State} (h : exec i s = .next t) :
    (executeAll (i :: is) s).2 = (i, t.rsp) :: (executeAll is t).2 := by
  simp only [executeAll, h]

theorem scrbyteOperand_eq_some {i : Instr} {x : Byte} (h : scrbyteOperand i = some x) : i = .scrbyte x := by
  unfold scrbyteOperand at h
  split at h
  · rw [Option.some.inj h]
  · cases h

theorem scrbyteResponse_scrbyte (x : Byte) (r : Response) : scrbyteResponse (.scrbyte x, some r) = some r := rfl

theorem scrbyteResponse_of_operand_none {i : Instr} (h : scrbyteOperand i = none) (r : Option Response) :
    scrbyteResponse (i, r) = none := by
  unfold scrbyteResponse
  split
  next x hi => cases hi; cases h
  · rfl

/-- A command that neither seeds nor scrambles keeps `SCR` (43_scrambler.md R187, 10_state.md R22). -/
theorem exec_scr_of_operand_none {i : Instr} {s t : State} (h : exec i s = .next t) (hseed : ∀ key, i ≠ .scrseed key)
    (hop : scrbyteOperand i = none) : t.scr = s.scr := by
  obtain ⟨-, -, hscr⟩ := Proofs.whoWritesRegisters i s t h
  exact hscr hseed fun x hi => by cases hi; cases hop

/-- From any state, the `SCRBYTE`s of a sequence without `SCRSEED` answer the transform of their operands, keyed by the
`SCR` it starts with. -/
theorem executeAll_scrbytes {cs : List Instr} (hcs : ∀ i ∈ cs, ∀ key, i ≠ .scrseed key) (s : State) :
    (executeAll cs s).2.filterMap scrbyteResponse =
        (transform (cs.filterMap scrbyteOperand) s.scr).map (fun b => ⟨.ok, b.setWidth 32⟩) ∧
      (executeAll cs s).1.scr = lcgIter (cs.filterMap scrbyteOperand).length s.scr := by
  induction cs generalizing s with
  | nil => exact ⟨rfl, rfl⟩
  | cons i is ih =>
    obtain ⟨hi, his⟩ := List.forall_mem_cons.mp hcs
    obtain ⟨t, ht⟩ := exec_next i s
    obtain ⟨hanswers, hscr⟩ := ih his t
    rw [executeAll_cons_fst ht, executeAll_cons_snd ht]
    cases hop : scrbyteOperand i with
    | none =>
      rw [List.filterMap_cons_none (scrbyteResponse_of_operand_none hop _), List.filterMap_cons_none hop,
        ← exec_scr_of_operand_none ht hi hop]
      exact ⟨hanswers, hscr⟩
    | some x =>
      obtain rfl := scrbyteOperand_eq_some hop
      rw [exec_scrbyte] at ht
      cases ht
      rw [List.filterMap_cons_some (scrbyteResponse_scrbyte x _), List.filterMap_cons_some hop, hanswers, hscr,
        transform, List.map_cons, List.length_cons]
      exact ⟨rfl, lcgIter_lcg _ _⟩

end Sys2Proof.Machine

namespace Sys2Proof.Proofs

open Sys2Proof.Machine

/-- Settles O34: `executeAll_scrbytes` from the state that `SCRSEED` leaves. -/
theorem streamedScramblerIsTransform : Obligations.StreamedScramblerIsTransform := by
  intro key cs s hcs
  rw [executeAll_cons_fst (exec_scrseed key s), executeAll_cons_snd (exec_scrseed key s), List.filterMap_cons_none rfl]
  exact executeAll_scrbytes hcs _

/-- Settles O31, by the exact form of the step. -/
theorem scrbyteAdvancesState : Obligations.ScrbyteAdvancesState :=
  ⟨fun x => decode_encode (i := .scrbyte x) rfl, exec_scrbyte_eq_ofNat⟩

/-- Settles O32, by the transform as a map over positions. -/
theorem transformIsPositional : Obligations.TransformIsPositional := by
  intro x key
  rw [transform_eq_mapIdx]
  refine ⟨List.length_mapIdx, fun t ht => ?_⟩
  rw [List.getElem?_mapIdx, List.getElem?_eq_getElem ht, Option.map_some]

/-- Settles O33: the keystream is the same both times, and XOR with it undoes itself. -/
theorem transformUndoesItself : Obligations.TransformUndoesItself := by
  intro x key
  have hself (t : Nat) : (fun b : Byte => b ^^^ ks key t ^^^ ks key t) = id := by
    funext b
    rw [BitVec.xor_assoc, BitVec.xor_self, BitVec.xor_zero, id]
  rw [transform_eq_mapIdx, transform_eq_mapIdx, List.mapIdx_mapIdx]
  refine List.mapIdx_eq_iff.mpr fun t => ?_
  rw [Function.comp_def, hself, Option.map_id, id]

/-- Settles O30: the `SCRBYTE` after it starts from the state that `SCRSEED` leaves. -/
theorem scrseedSetsState : Obligations.ScrseedSetsState := by
  refine ⟨fun key => decode_encode (i := .scrseed key) rfl, exec_scrseed, fun key s t x ht => ?_⟩
  rw [exec_scrseed] at ht
  cases ht
  exact exec_scrbyte_eq_ofNat x _

end Sys2Proof.Proofs
end

section
/-! The container codec: the layout of 44_container_codec.md R195 as a list of its fields, what `serialize` and `deserialize`
do on it, and that every input of at least 20 bytes has that shape. -/

namespace Sys2Proof.Machine

/-! ## The fields that are more than one byte -/

theorem fingerprintField_length (f : List Byte) : (fingerprintField f).length = 12 := by
  rw [fingerprintField, List.length_take, List.length_append, List.length_replicate]
  omega

/-- Each byte of the fingerprint field is the fingerprint's own, or a space past its end (44_container_codec.md R196). -/
theorem fingerprintField_getElem? (f : List Byte) {i : Nat} (hi : i < 12) :
    (fingerprintField f)[i]? = some (f.getD i 0x20) := by
  rw [fingerprintField, List.getElem?_take_of_lt hi, List.getD_eq_getElem?_getD]
  by_cases hf : i < f.length
  · rw [List.getElem?_append_left hf, List.getElem?_eq_getElem hf, Option.getD_some]
  · rw [List.getElem?_append_right (by omega), List.getElem?_replicate_of_lt (by omega),
      List.getElem?_eq_none (by omega), Option.getD_none]

/-- A fingerprint of 12 bytes is neither cut nor filled. -/
theorem fingerprintField_of_length {f : List Byte} (hf : f.length = 12) : fingerprintField f = f :=
  List.take_left' hf

theorem bigEndian_append (x y z t : Byte) : bigEndian (x ++ y ++ z ++ t) = [x, y, z, t] := by
  have hx : (x ++ y ++ z ++ t).extractLsb' 24 8 = x := by
    rw [BitVec.extractLsb'_append_eq_of_le (by decide), BitVec.extractLsb'_append_eq_of_le (by decide)]
    exact BitVec.extractLsb'_append_eq_left
  have hy : (x ++ y ++ z ++ t).extractLsb' 16 8 = y := extractLsb'_third x y z t
  have hz : (x ++ y ++ z ++ t).extractLsb' 8 8 = z := extractLsb'_second (x ++ y) z t
  have ht : (x ++ y ++ z ++ t).extractLsb' 0 8 = t := BitVec.extractLsb'_append_eq_right
  rw [bigEndian, hx, hy, hz, ht]

/-- The four bytes of `bigEndian w`, put together. -/
theorem append_extractLsb'_bytes (w : Word) :
    w.extractLsb' 24 8 ++ w.extractLsb' 16 8 ++ w.extractLsb' 8 8 ++ w.extractLsb' 0 8 = w := by
  rw [BitVec.extractLsb'_append_extractLsb'_eq_extractLsb', BitVec.extractLsb'_append_extractLsb'_eq_extractLsb',
    BitVec.extractLsb'_append_extractLsb'_eq_extractLsb']
  · exact BitVec.extractLsb'_eq_self
  all_goals rfl

/-! ## The layout -/

/-- The fields of a container in the order of 44_container_codec.md R195, the name length as it stands in its byte, and after
it the bytes of name and shard together. -/
def layout (id k r : Byte) (size : Word) (fingerprint : List Byte) (nameLength : Byte) (rest : List Byte) : List Byte :=
  [id, k, r] ++ bigEndian size ++ (fingerprint ++ nameLength :: rest)

section Layout
variable {id k r : Byte} {size : Word} {f : List Byte} {len : Byte} {rest : List Byte}

theorem layout_length (hf : f.length = 12) : (layout id k r size f len rest).length = 20 + rest.length := by
  simp only [layout, bigEndian, List.length_append, List.length_cons, List.length_nil, hf]
  omega

theorem layout_getD_size : (layout id k r size f len rest).getD 3 0 ++ (layout id k r size f len rest).getD 4 0 ++
    (layout id k r size f len rest).getD 5 0 ++ (layout id k r size f len rest).getD 6 0 = size :=
  append_extractLsb'_bytes size

/-- After the seven bytes of `id`, `k`, `r` and the size. -/
theorem layout_drop_7 : (layout id k r size f len rest).drop 7 = f ++ len :: rest := rfl

theorem layout_getElem?_fingerprint (hf : f.length = 12) {i : Nat} (hi : i < 12) :
    (layout id k r size f len rest)[7 + i]? = f[i]? := by
  rw [← List.getElem?_drop, layout_drop_7, List.getElem?_append_left (by omega)]

theorem layout_drop_19 (hf : f.length = 12) : (layout id k r size f len rest).drop 19 = len :: rest := by
  rw [show 19 = 7 + 12 from rfl, ← List.drop_drop, layout_drop_7, List.drop_left' hf]

theorem layout_getElem?_nameLength (hf : f.length = 12) : (layout id k r size f len rest)[19]? = some len := by
  rw [← List.head?_drop, layout_drop_19 hf, List.head?_cons]

theorem layout_getD_nameLength (hf : f.length = 12) : (layout id k r size f len rest).getD 19 0 = len := by
  rw [List.getD_eq_getElem?_getD, layout_getElem?_nameLength hf, Option.getD_some]

theorem layout_drop_20 (hf : f.length = 12) : (layout id k r size f len rest).drop 20 = rest := by
  rw [← List.tail_drop, layout_drop_19 hf, List.tail_cons]

/-- `deserialize` on a layout: the name length byte says how much of what follows is the name (44_container_codec.md R200). -/
theorem deserialize_layout (hf : f.length = 12) (hlen : len.toNat ≤ rest.length) :
    deserialize (layout id k r size f len rest) =
      .ok ⟨id, k.toNat, r.toNat, size, f, rest.take len.toNat, rest.drop len.toNat⟩ := by
  have hlength : (layout id k r size f len rest).length = 20 + rest.length := layout_length hf
  rw [deserialize, layout_getD_nameLength hf, if_neg (by omega), if_neg (by omega), ← List.drop_drop,
    layout_drop_20 hf, layout_drop_7, List.take_left' hf, layout_getD_size]
  rfl

end Layout

/-- Every input of at least 20 bytes is the layout of what `deserialize` reads from it. -/
theorem layout_of_fields {b : List Byte} (hb : 20 ≤ b.length) :
    layout (b.getD 0 0) (b.getD 1 0) (b.getD 2 0) (b.getD 3 0 ++ b.getD 4 0 ++ b.getD 5 0 ++ b.getD 6 0)
      ((b.drop 7).take 12) (b.getD 19 0) (b.drop 20) = b := by
  have hcons (i : Nat) (hi : i < 20) : b.getD i 0 :: b.drop (i + 1) = b.drop i := by
    rw [List.getD_eq_getElem _ _ (by omega), List.getElem_cons_drop]
  have hrest : (b.drop 7).take 12 ++ b.getD 19 0 :: b.drop 20 = b.drop 7 := by
    rw [hcons 19 (by decide), show 19 = 7 + 12 from rfl, ← List.drop_drop, List.take_append_drop]
  rw [layout, bigEndian_append, hrest]
  simp only [List.cons_append, List.nil_append, hcons 6, hcons 5, hcons 4, hcons 3, hcons 2, hcons 1, hcons 0,
    Nat.reduceLT, List.drop_zero]

theorem exists_layout {b : List Byte} (hb : 20 ≤ b.length) :
    ∃ id k r size f len rest, f.length = 12 ∧ b = layout id k r size f len rest :=
  ⟨_, _, _, _, _, _, _, by rw [List.length_take, List.length_drop]; omega, (layout_of_fields hb).symm⟩

/-! ## `serialize` and `deserialize` -/

theorem Container.storable_iff {c : Container} :
    c.storable = true ↔ c.k ≤ 255 ∧ c.r ≤ 255 ∧ c.name.length ≤ 255 := by
  simp only [Container.storable, Bool.and_eq_true, decide_eq_true_eq, and_assoc]

theorem serialize_of_storable {c : Container} (hc : c.storable = true) :
    serialize c = some (layout c.id (BitVec.ofNat 8 c.k) (BitVec.ofNat 8 c.r) c.size (fingerprintField c.fingerprint)
      (BitVec.ofNat 8 c.name.length) (c.name ++ c.bytes)) := by
  simp only [serialize, hc, if_true, layout, List.append_assoc, List.cons_append, List.nil_append]

theorem serialize_of_not_storable {c : Container} (hc : ¬ c.storable = true) : serialize c = none := if_neg hc

/-- Only a storable container is serialized, and to the layout of its fields. -/
theorem serialize_eq_some {c : Container} {b : List Byte} (h : serialize c = some b) :
    c.storable = true ∧ b = layout c.id (BitVec.ofNat 8 c.k) (BitVec.ofNat 8 c.r) c.size
      (fingerprintField c.fingerprint) (BitVec.ofNat 8 c.name.length) (c.name ++ c.bytes) := by
  by_cases hc : c.storable = true
  · rw [serialize_of_storable hc] at h
    exact ⟨hc, (Option.some.inj h).symm⟩
  · rw [serialize_of_not_storable hc] at h
    cases h

/-- What `deserialize` reads from a layout serializes to it. -/
theorem serialize_layout_fields {id k r : Byte} {size : Word} {f : List Byte} {len : Byte} {rest : List Byte}
    (hf : f.length = 12) (hlen : len.toNat ≤ rest.length) :
    serialize ⟨id, k.toNat, r.toNat, size, f, rest.take len.toNat, rest.drop len.toNat⟩ =
      some (layout id k r size f len rest) := by
  have hname : (rest.take len.toNat).length = len.toNat := List.length_take_of_le hlen
  have hbyte (x : Byte) : x.toNat ≤ 255 := Nat.le_of_lt_succ x.isLt
  rw [serialize_of_storable (Container.storable_iff.mpr ⟨hbyte k, hbyte r, hname.trans_le (hbyte len)⟩)]
  simp only [hname, BitVec.ofNat_toNat, BitVec.setWidth_eq, fingerprintField_of_length hf, List.take_append_drop]

/-- The two length tests of 44_container_codec.md R200. -/
theorem deserialize_eq_error_iff {b : List Byte} :
    deserialize b = .error .invalidContainer ↔ b.length < 20 ∨ b.length < 20 + (b.getD 19 0).toNat := by
  rw [deserialize]
  split
  next h => exact iff_of_true rfl (.inl h)
  next h20 =>
    split
    next h => exact iff_of_true rfl (.inr h)
    next hL => exact iff_of_false nofun (not_or_intro h20 hL)

end Sys2Proof.Machine

namespace Sys2Proof.Proofs

open Sys2Proof.Machine

/-- Settles O57: `serialize` gives the layout of a storable container, whose fields stand where the laws of `layout` say. -/
theorem containerLayout : Obligations.ContainerLayout := by
  refine ⟨fun c hk hr hname => ⟨_, serialize_of_storable (Container.storable_iff.mpr ⟨hk, hr, hname⟩)⟩,
    fun c hbig => serialize_of_not_storable fun hc => ?_, fun c b hb => ?_⟩
  · obtain ⟨hk, hr, hname⟩ := Container.storable_iff.mp hc
    omega
  · obtain ⟨-, rfl⟩ := serialize_eq_some hb
    have hf := fingerprintField_length c.fingerprint
    refine ⟨?_, rfl, rfl, rfl, rfl, fun i hi => ?_, layout_getElem?_nameLength hf, ?_, ?_⟩
    · rw [layout_length hf, List.length_append, Nat.add_assoc]
    · rw [layout_getElem?_fingerprint hf hi, fingerprintField_getElem? _ hi]
    · rw [layout_drop_20 hf, List.take_left]
    · rw [← List.drop_drop, layout_drop_20 hf, List.drop_left]

/-- Settles O58, by `deserialize` on the layout: numbers up to 255 read back from their bytes. -/
theorem containerReadsBack : Obligations.ContainerReadsBack := by
  intro c b hb
  obtain ⟨hc, rfl⟩ := serialize_eq_some hb
  obtain ⟨hk, hr, hname⟩ := Container.storable_iff.mp hc
  have hbyte {n : Nat} (hn : n ≤ 255) : (BitVec.ofNat 8 n).toNat = n :=
    (BitVec.toNat_ofNat n 8).trans (Nat.mod_eq_of_lt (Nat.lt_succ_of_le hn))
  have hfits : (BitVec.ofNat 8 c.name.length).toNat ≤ (c.name ++ c.bytes).length := by
    rw [hbyte hname, List.length_append]
    omega
  rw [deserialize_layout (fingerprintField_length _) hfits, hbyte hk, hbyte hr, hbyte hname, List.take_left, List.drop_left]

/-- Settles O59: a long enough input is a layout, and what is read from a layout serializes to it. -/
theorem invalidContainerExactlyWhenTooShort : Obligations.InvalidContainerExactlyWhenTooShort := by
  intro b
  refine ⟨deserialize_eq_error_iff.symm, fun h20 hL => ?_⟩
  obtain ⟨id, k, r, size, f, len, rest, hf, rfl⟩ := exists_layout h20
  rw [layout_getD_nameLength hf, layout_length hf] at hL
  have hlen : len.toNat ≤ rest.length := by omega
  exact ⟨_, deserialize_layout hf hlen, serialize_layout_fields hf hlen, hf⟩

end Sys2Proof.Proofs
end

section
/-! The encoder: the tests that ENCODE and DECODE share, in terms of the shard size as a least quotient, what ENCODE writes to
the fragments and the headers, and what it reads. -/

namespace Sys2Proof.Machine

/-! ## The shard size (00_scope.md R12, 45_encoder.md R217) -/

theorem ceilDiv_le_iff {a b q : Nat} (hb : 1 ≤ b) : ceilDiv a b ≤ q ↔ a ≤ q * b := by
  rw [ceilDiv, Nat.div_le_iff_le_mul_add_pred hb, Nat.add_le_add_iff_right, Nat.mul_comm]

theorem ceilDiv_eq_of_isCeil {a b S : Nat} (hb : 1 ≤ b) (hS : isCeil a b S) : ceilDiv a b = S := by
  obtain ⟨hcovers, hleast⟩ := hS
  exact Nat.le_antisymm ((ceilDiv_le_iff hb).mpr hcovers) (hleast _ ((ceilDiv_le_iff hb).mp (Nat.le_refl _)))

/-! ## The descriptor tests (60_exceptions.md R292, R294, R299) -/

section Descriptor
variable {s : State} {S : Nat}

theorem State.badParameters_iff : s.badParameters = true ↔ s.k.toNat < 1 ∨ s.k.toNat + s.r.toNat > 256 := by
  simp [State.badParameters, State.n, Config.nMax]

theorem State.overCapacity_iff :
    s.overCapacity = true ↔ s.size.toNat > s.cfg.payMax.toNat ∨ s.shardSize > s.cfg.shardMax.toNat := by
  simp [State.overCapacity]

theorem State.descriptorError_of_badParameters (h : s.badParameters = true) :
    s.descriptorError = some .invalidParameters := if_pos h

theorem State.descriptorError_of_overCapacity (hgood : ¬s.badParameters = true) (h : s.overCapacity = true) :
    s.descriptorError = some .capacityExceeded := by
  rw [State.descriptorError, if_neg hgood, if_pos h]

theorem State.Fits.shardSize_eq (h : s.Fits S) : s.shardSize = S := ceilDiv_eq_of_isCeil h.kPos h.ceil

theorem State.Fits.descriptorError_eq (h : s.Fits S) : s.descriptorError = none := by
  have hbad : ¬s.badParameters = true := by
    rw [State.badParameters_iff]
    exact not_or_intro (Nat.not_lt_of_le h.kPos) (Nat.not_lt_of_le h.nMax)
  have hover : ¬s.overCapacity = true := by
    rw [State.overCapacity_iff, h.shardSize_eq]
    exact not_or_intro (Nat.not_lt_of_le h.pay) (Nat.not_lt_of_le h.slot)
  rw [State.descriptorError, if_neg hbad, if_neg hover]

/-- A command that raises what the descriptor tests find makes them first and in their order. -/
theorem descriptorTestsFirst_of_raises {i : Instr}
    (hraises : ∀ e, s.descriptorError = some e → exec i s = .next (s.raise e)) : descriptorTestsFirst i s := by
  refine ⟨fun hbad => hraises _ (State.descriptorError_of_badParameters (State.badParameters_iff.mpr hbad)),
    fun S hk hn hS hover => hraises _ (State.descriptorError_of_overCapacity (fun hbad => ?_) ?_)⟩
  · have := State.badParameters_iff.mp hbad
    omega
  · rwa [State.overCapacity_iff, State.shardSize, ceilDiv_eq_of_isCeil hk hS]

end Descriptor

/-! ## What ENCODE writes (45_encoder.md R216) -/

section Encode
variable {s : State}

theorem exec_encode_of_error {e : ErrorKind} (h : s.descriptorError = some e) :
    exec .encode s = .next (s.raise e) := by
  rw [exec, execEncode, h, complete_error]

theorem exec_encode_of_none (h : s.descriptorError = none) :
    exec .encode s = .next ((encodeCommit s).respond 0) := by
  rw [exec, execEncode, h, complete_ok]

theorem encodeCommit_slot (x : BitVec 8) :
    (encodeCommit s).slot x = if x.toNat < s.n then ⟨true, true, x⟩ else ⟨false, false, 0⟩ := by
  simp [encodeCommit, State.slot]

/-- The first `S` bytes of the first `n` slots are written, and no other byte of fragment memory. -/
theorem encodeCommit_stored_frag (x : BitVec 8) (b : Nat) :
    (encodeCommit s).stored (.frag x) b =
      if x.toNat < s.n ∧ b < s.shardSize then some (fragmentByte s x.toNat b) else s.stored (.frag x) b := by
  rw [State.stored, encodeCommit_mem_frag]
  by_cases hx : x.toNat < s.n
  · by_cases hb : b < s.shardSize <;> simp [hx, hb, Memory.read_writeMany, State.stored]
  · simp [hx, State.stored]

theorem encodeCommit_stored_fragment {id b : Nat} (hn : s.n ≤ 256) (hid : id < s.n) (hb : b < s.shardSize) :
    (encodeCommit s).stored (.frag (BitVec.ofNat 8 id)) b = some (fragmentByte s id b) := by
  have hnat : (BitVec.ofNat 8 id).toNat = id := Nat.mod_eq_of_lt (hid.trans_le hn)
  rw [encodeCommit_stored_frag, hnat, if_pos ⟨hid, hb⟩]

theorem scrambledBlock_eq_dataByte : scrambledBlock s = s.dataByte s.shardSize := rfl

theorem fragmentByte_of_lt {i : Nat} (hi : i < s.k.toNat) (b : Nat) :
    fragmentByte s i b = s.dataByte s.shardSize i b := by
  rw [fragmentByte, if_pos hi, scrambledBlock_eq_dataByte]

theorem fragmentByte_parity (q b : Nat) :
    fragmentByte s (s.k.toNat + q) b = xorSum s.k.toNat fun l =>
      gfMul s.tables (build s.tables s.k.toNat (s.k.toNat + q) l) (s.dataByte s.shardSize l b) := by
  rw [fragmentByte, if_neg (Nat.not_lt_of_le (Nat.le_add_right _ _)), Nat.add_sub_cancel_left, parityBlock, matMul,
    scrambledBlock_eq_dataByte]

end Encode

/-! ## What ENCODE reads (45_encoder.md R217) -/

/-- The state `s` with another payload memory, other banks and another `SCR`. -/
def State.withPayMatScr (s : State) (p : Memory) (m : Vector Memory 4) (v : Word) : State :=
  { s with pay := p, mat := m, scr := v }

section Reads
variable {s : State} {p : Memory} {m : Vector Memory 4} {v : Word}

theorem State.withPayMatScr_descriptorError : (s.withPayMatScr p m v).descriptorError = s.descriptorError := rfl

variable (hpay : ∀ a, a < s.size.toNat → (s.withPayMatScr p m v).stored .pay a = s.stored .pay a)
include hpay

/-- The padded payload is where ENCODE reads `PAY`: below `SIZE` only. -/
theorem paddedByte_withPayMatScr : paddedByte (s.withPayMatScr p m v) = paddedByte s := by
  funext a
  refine if_ctx_congr Iff.rfl (fun ha => ?_) fun _ => rfl
  rw [State.memRead, hpay a ha]
  rfl

theorem scrambledBlock_withPayMatScr : scrambledBlock (s.withPayMatScr p m v) = scrambledBlock s := by
  funext i t
  rw [scrambledBlock, paddedByte_withPayMatScr hpay]
  rfl

theorem fragmentByte_withPayMatScr : fragmentByte (s.withPayMatScr p m v) = fragmentByte s := by
  funext id t
  rw [fragmentByte, parityBlock, scrambledBlock_withPayMatScr hpay]
  rfl

theorem encodeCommit_withPayMatScr :
    encodeCommit (s.withPayMatScr p m v) = (encodeCommit s).withPayMatScr p m v := by
  rw [encodeCommit, fragmentByte_withPayMatScr hpay]
  rfl

/-- What ENCODE does not read, it passes on unchanged; everything else is as without the change. -/
theorem exec_encode_withPayMatScr {t : State} (h : exec .encode s = .next t) :
    exec .encode (s.withPayMatScr p m v) = .next (t.withPayMatScr p m v) := by
  cases herr : s.descriptorError with
  | some e =>
    rw [exec_encode_of_error herr] at h
    cases h
    exact exec_encode_of_error herr
  | none =>
    rw [exec_encode_of_none herr] at h
    cases h
    rw [exec_encode_of_none (State.withPayMatScr_descriptorError.trans herr), encodeCommit_withPayMatScr hpay]
    rfl

end Reads

end Sys2Proof.Machine

namespace Sys2Proof.Proofs

open Sys2Proof.Machine

/-- Settles O35: `ENCODE` raises what the descriptor tests find; a dataset that fits passes them with `S` as its shard size,
and then fragments and headers are those of `encodeCommit`. -/
theorem encodeWritesFragments : Obligations.EncodeWritesFragments := by
  refine ⟨decode_encode (i := .encode) rfl, fun s => descriptorTestsFirst_of_raises fun e => exec_encode_of_error,
    fun s S hfits => ?_⟩
  have hn : s.n ≤ 256 := hfits.nMax
  obtain rfl := hfits.shardSize_eq
  refine ⟨_, exec_encode_of_none hfits.descriptorError_eq, rfl, fun i b hi hb => ?_, fun q b hq hb => ?_,
    fun x b hout => ?_, encodeCommit_slot⟩
  · rw [State.respond_stored, encodeCommit_stored_fragment hn (Nat.lt_add_right _ hi) hb, fragmentByte_of_lt hi]
  · rw [State.respond_stored, encodeCommit_stored_fragment hn (Nat.add_lt_add_left hq _) hb, fragmentByte_parity]
  · rw [State.respond_stored, encodeCommit_stored_frag, if_neg]
    rintro ⟨hx, hb⟩
    exact hout.elim (Nat.not_le_of_lt hx) (Nat.not_le_of_lt hb)

/-- Settles O36: the padded payload, through which `ENCODE` reads `PAY`, is the same in both states, and `ENCODE` reads no
bank and no `SCR`. -/
theorem encodeReadsOnlyThePayload : Obligations.EncodeReadsOnlyThePayload := by
  intro s s' hs' hpay
  obtain ⟨p, m, v, rfl⟩ : ∃ p m v, s' = s.withPayMatScr p m v := ⟨_, _, _, hs'⟩
  obtain ⟨t, ht⟩ := exec_next .encode s
  exact ⟨t, _, ht, exec_encode_withPayMatScr hpay ht, rfl, rfl, rfl, rfl⟩

end Sys2Proof.Proofs
end

section
/-! The decoder: the sort of DECODE is an insertion sort of the alive slots, and counts of alive slots say where ids stand in
it; the tests of DECODE, with the inverse or the error they end in; what DECODE writes, and what that depends on. -/

namespace Sys2Proof.Machine

/-! ## The alive slots (46_decoder.md R237) -/

section AliveSlots
variable {s : State}

theorem allSlots_ascending : allSlots.Pairwise fun x y => x.toNat < y.toNat := by
  refine List.pairwise_map.mpr (List.pairwise_lt_range.imp_of_mem fun {i j} hi hj hij => ?_)
  have hi := List.mem_range.mp hi
  have hj := List.mem_range.mp hj
  simp only [BitVec.toNat_ofNat]
  omega

theorem mem_allSlots (x : BitVec 8) : x ∈ allSlots :=
  List.mem_map.mpr ⟨x.toNat, List.mem_range.mpr x.isLt, by simp⟩

theorem mem_aliveSlots {x : BitVec 8} : x ∈ aliveSlots s ↔ (s.slot x).valid = true ∧ (s.slot x).alive = true := by
  simp [aliveSlots, mem_allSlots]

theorem aliveBelow_eq_countP (v : Nat) :
    s.aliveBelow v = (aliveSlots s).countP fun x => decide ((s.slot x).id.toNat < v) := by
  rw [State.aliveBelow, aliveSlots, List.countP_filter]
  exact List.countP_congr fun x _ => by rw [Bool.and_comm]

theorem aliveBelow_mono {v w : Nat} (h : v ≤ w) : s.aliveBelow v ≤ s.aliveBelow w := by
  rw [aliveBelow_eq_countP, aliveBelow_eq_countP]
  exact List.countP_mono_left fun x _ hx => decide_eq_true ((of_decide_eq_true hx).trans_le h)

theorem aliveBelow_le_length (v : Nat) : s.aliveBelow v ≤ (aliveSlots s).length := by
  rw [aliveBelow_eq_countP]
  exact List.countP_le_length

/-- All alive slots count below a bound on their ids. -/
theorem aliveBelow_eq_length {v : Nat} (h : ∀ x ∈ aliveSlots s, (s.slot x).id.toNat < v) :
    s.aliveBelow v = (aliveSlots s).length := by
  rw [aliveBelow_eq_countP]
  exact List.countP_eq_length.mpr fun x hx => decide_eq_true (h x hx)

theorem aliveBelow_256 : s.aliveBelow 256 = (aliveSlots s).length := aliveBelow_eq_length fun x _ => (s.slot x).id.isLt

end AliveSlots

/-! ## The sort (46_decoder.md R239) -/

/-- What the sort compares. -/
abbrev State.idLe (s : State) (x y : BitVec 8) : Prop := (s.slot x).id.toNat ≤ (s.slot y).id.toNat

theorem insertById_eq_orderedInsert (s : State) (x : BitVec 8) (l : List (BitVec 8)) :
    insertById s x l = l.orderedInsert s.idLe x := by
  induction l with
  | nil => rfl
  | cons y ys ih => rw [insertById, List.orderedInsert_cons, ih]

theorem sortById_eq_insertionSort (s : State) (l : List (BitVec 8)) : sortById s l = l.insertionSort s.idLe := by
  induction l with
  | nil => rfl
  | cons x xs ih => rw [sortById, insertById_eq_orderedInsert, ih, List.insertionSort_cons]

/-- An insertion before the first id that is not smaller keeps the order, where the slot is below those it passes. -/
theorem pairwise_before_insertById {s : State} {x : BitVec 8} {l : List (BitVec 8)} (hl : l.Pairwise s.before)
    (hx : ∀ y ∈ l, x.toNat < y.toNat) : (insertById s x l).Pairwise s.before := by
  induction l with
  | nil => exact List.pairwise_singleton _ _
  | cons y ys ih =>
    obtain ⟨hy, hys⟩ := List.pairwise_cons.mp hl
    rw [insertById]
    split
    next hle =>
      refine List.pairwise_cons.mpr ⟨fun z hz => ?_, hl⟩
      have hid : (s.slot x).id.toNat ≤ (s.slot z).id.toNat := by
        rcases List.mem_cons.mp hz with rfl | hzs
        · exact hle
        · rcases hy z hzs with hlt | ⟨heq, -⟩
          · exact hle.trans hlt.le
          · exact heq ▸ hle
      exact hid.lt_or_eq.imp_right fun heq => ⟨BitVec.eq_of_toNat_eq heq, hx z hz⟩
    next hgt =>
      refine List.pairwise_cons.mpr ⟨fun z hz => ?_, ih hys fun z hz => hx z (List.mem_cons_of_mem y hz)⟩
      rw [insertById_eq_orderedInsert, List.mem_orderedInsert] at hz
      rcases hz with rfl | hzs
      · exact .inl (Nat.lt_of_not_le hgt)
      · exact hy z hzs

theorem pairwise_before_sortById {s : State} {l : List (BitVec 8)} (hl : l.Pairwise fun x y => x.toNat < y.toNat) :
    (sortById s l).Pairwise s.before := by
  induction l with
  | nil => exact List.Pairwise.nil
  | cons x xs ih =>
    obtain ⟨hx, hxs⟩ := List.pairwise_cons.mp hl
    refine pairwise_before_insertById (ih hxs) fun y hy => hx y ?_
    rwa [sortById_eq_insertionSort, List.mem_insertionSort] at hy

/-- In a list that rises by `f` the elements below a bound stand first. -/
theorem getElem_lt_iff_lt_countP {α : Type} {f : α → Nat} {l : List α} (hl : l.Pairwise fun x y => f x ≤ f y) (v : Nat)
    {i : Nat} (hi : i < l.length) : f l[i] < v ↔ i < l.countP fun x => decide (f x < v) := by
  induction l generalizing i with
  | nil => cases hi
  | cons x xs ih =>
    obtain ⟨hx, hxs⟩ := List.pairwise_cons.mp hl
    by_cases hlt : f x < v
    · rw [List.countP_cons_of_pos (p := fun y => decide (f y < v)) (decide_eq_true hlt)]
      cases i with
      | zero => exact iff_of_true hlt (Nat.succ_pos _)
      | succ i => exact (ih hxs (Nat.lt_of_succ_lt_succ hi)).trans Nat.succ_lt_succ_iff.symm
    · have hnone : (x :: xs).countP (fun y => decide (f y < v)) = 0 := by
        refine List.countP_eq_zero.mpr fun y hy => ?_
        rcases List.mem_cons.mp hy with rfl | hys
        · simpa using hlt
        · simpa using (Nat.le_of_not_lt hlt).trans (hx y hys)
      rw [hnone]
      refine iff_of_false (fun h => ?_) (Nat.not_lt_zero i)
      exact List.countP_eq_zero.mp hnone _ (List.getElem_mem hi) (decide_eq_true h)

/-- Step 2, the list `B` of DECODE (46_decoder.md R236). -/
def sortedAlive (s : State) : List (BitVec 8) := sortById s (aliveSlots s)

section SortedAlive
variable {s : State}

theorem selectedSlots_eq_take : selectedSlots s = (sortedAlive s).take s.k.toNat := rfl

theorem sortedAlive_perm : (sortedAlive s).Perm (aliveSlots s) := by
  rw [sortedAlive, sortById_eq_insertionSort]
  exact List.perm_insertionSort _ _

theorem mem_sortedAlive {x : BitVec 8} : x ∈ sortedAlive s ↔ x ∈ aliveSlots s := sortedAlive_perm.mem_iff

theorem sortedAlive_length : (sortedAlive s).length = (aliveSlots s).length := sortedAlive_perm.length_eq

theorem sortedAlive_pairwise_before : (sortedAlive s).Pairwise s.before :=
  pairwise_before_sortById (allSlots_ascending.filter _)

/-- As many alive slots have an id below `v` as stand before the first with another id. -/
theorem sortedAlive_id_lt_iff (v : Nat) {i : Nat} (hi : i < (sortedAlive s).length) :
    (s.slot (sortedAlive s)[i]).id.toNat < v ↔ i < s.aliveBelow v := by
  have hrises : (sortedAlive s).Pairwise s.idLe :=
    sortedAlive_pairwise_before.imp fun h => h.elim Nat.le_of_lt fun heq => (congrArg BitVec.toNat heq.1).le
  rw [aliveBelow_eq_countP, ← sortedAlive_perm.countP_eq]
  exact getElem_lt_iff_lt_countP (f := fun x => (s.slot x).id.toNat) hrises v hi

/-- An alive slot stands between the counts at its id and at the next. -/
theorem exists_sortedAlive_index {x : BitVec 8} (hx : x ∈ aliveSlots s) {v : Nat} (hid : (s.slot x).id.toNat = v) :
    ∃ (i : Nat) (hi : i < (sortedAlive s).length), (sortedAlive s)[i] = x ∧
      s.aliveBelow v ≤ i ∧ i < s.aliveBelow (v + 1) := by
  obtain ⟨i, hi, rfl⟩ := List.mem_iff_getElem.mp (mem_sortedAlive.mpr hx)
  refine ⟨i, hi, rfl, Nat.le_of_not_lt fun h => ?_, (sortedAlive_id_lt_iff _ hi).mp (by omega)⟩
  exact ((sortedAlive_id_lt_iff v hi).mpr h).ne hid

/-! ## The selected slots (46_decoder.md R236, R239) -/

theorem selectedSlot_eq_getElem {l : Nat} (hl : l < s.k.toNat) (hi : l < (sortedAlive s).length) :
    selectedSlot s l = (sortedAlive s)[l] := by
  rw [selectedSlot, selectedSlots_eq_take, List.getD_eq_getElem?_getD, List.getElem?_take_of_lt hl,
    List.getElem?_eq_getElem hi, Option.getD_some]

section EnoughAlive
variable (hk : s.k.toNat ≤ (aliveSlots s).length)
include hk

theorem selectedSlots_length : (selectedSlots s).length = s.k.toNat := by
  rw [selectedSlots_eq_take, List.length_take, sortedAlive_length, Nat.min_eq_left hk]

/-- No slot is selected twice. -/
theorem selectedSlot_inj {l m : Nat} (hl : l < s.k.toNat) (hm : m < s.k.toNat)
    (h : selectedSlot s l = selectedSlot s m) : l = m := by
  have hnodup : (sortedAlive s).Nodup := sortedAlive_pairwise_before.imp fun {x y} hxy => by
    rintro rfl
    exact hxy.elim (Nat.lt_irrefl _) fun heq => Nat.lt_irrefl _ heq.2
  rw [← sortedAlive_length] at hk
  rw [selectedSlot_eq_getElem hl (hl.trans_le hk), selectedSlot_eq_getElem hm (hm.trans_le hk)] at h
  exact hnodup.getElem_inj_iff.mp h

variable {l : Nat} (hl : l < s.k.toNat)
include hl

theorem selectedSlot_mem_selectedSlots : selectedSlot s l ∈ selectedSlots s := by
  have hlt : l < (selectedSlots s).length := (selectedSlots_length hk).symm ▸ hl
  rw [selectedSlot, List.getD_eq_getElem _ _ hlt]
  exact List.getElem_mem hlt

theorem selectedSlot_mem_aliveSlots : selectedSlot s l ∈ aliveSlots s :=
  mem_sortedAlive.mp (List.mem_of_mem_take (selectedSlot_mem_selectedSlots hk hl))

theorem selectedId_lt_iff (v : Nat) : selectedId s l < v ↔ l < s.aliveBelow v := by
  have hi : l < (sortedAlive s).length := sortedAlive_length.symm ▸ hl.trans_le hk
  rw [selectedId, selectedSlot_eq_getElem hl hi, sortedAlive_id_lt_iff v hi]

/-- Where the ids at and next to `l` are counted apart, the id of slot `s_l` is known. -/
theorem selectedId_eq {v : Nat} (hge : s.aliveBelow v ≤ l) (hlt : l < s.aliveBelow (v + 1)) : selectedId s l = v := by
  have hle := (selectedId_lt_iff hk hl (v + 1)).mpr hlt
  have hnot := mt (selectedId_lt_iff hk hl v).mp (Nat.not_lt_of_le hge)
  omega

end EnoughAlive

end SortedAlive

/-! ## The tests of DECODE (46_decoder.md R236, R247) -/

/-- The inverse of the selected rows, where all tests of DECODE pass, or the error of the first that does not. -/
def decodeMatrix (s : State) : Except ErrorKind Matrix :=
  match s.descriptorError with
  | some e => .error e
  | none =>
    if (aliveSlots s).length < s.k.toNat then .error .insufficientFragments
    else if selectedId s (s.k.toNat - 1) ≥ s.n then .error .invalidParameters
    else (matInv s.tables s.k.toNat (submatrix s)).elim (.error .singularMatrix) .ok

theorem exec_decode_eq (s : State) :
    exec .decode s = complete s ((decodeMatrix s).map fun V => (decodeCommit s V, 0)) := by
  rw [exec, execDecode, decodeMatrix]
  cases s.descriptorError with
  | some e => rfl
  | none =>
    dsimp only
    split
    · rfl
    · split
      · rfl
      · cases matInv s.tables s.k.toNat (submatrix s) <;> rfl

section DecodeMatrix
variable {s : State}

theorem exec_decode_of_error {e : ErrorKind} (h : decodeMatrix s = .error e) : exec .decode s = .next (s.raise e) := by
  rw [exec_decode_eq, h, Except.map, complete_error]

theorem exec_decode_of_ok {V : Matrix} (h : decodeMatrix s = .ok V) :
    exec .decode s = .next ((decodeCommit s V).respond 0) := by
  rw [exec_decode_eq, h, Except.map, complete_ok]

theorem decodeMatrix_of_descriptorError {e : ErrorKind} (h : s.descriptorError = some e) :
    decodeMatrix s = .error e := by
  rw [decodeMatrix, h]

theorem decodeMatrix_of_few_alive (h : s.descriptorError = none) (hfew : (aliveSlots s).length < s.k.toNat) :
    decodeMatrix s = .error .insufficientFragments := by
  rw [decodeMatrix, h]
  exact if_pos hfew

theorem decodeMatrix_of_id_out_of_range (h : s.descriptorError = none) (hk : s.k.toNat ≤ (aliveSlots s).length)
    (hid : s.n ≤ selectedId s (s.k.toNat - 1)) : decodeMatrix s = .error .invalidParameters := by
  rw [decodeMatrix, h]
  exact (if_neg (Nat.not_lt_of_le hk)).trans (if_pos hid)

/-- DECODE answers `OK` only with at least `K` slots alive. -/
theorem le_length_of_decodeMatrix_ok {V : Matrix} (h : decodeMatrix s = .ok V) : s.k.toNat ≤ (aliveSlots s).length := by
  by_contra hfew
  cases herr : s.descriptorError with
  | some e => rw [decodeMatrix_of_descriptorError herr] at h; cases h
  | none => rw [decodeMatrix_of_few_alive herr (Nat.lt_of_not_le hfew)] at h; cases h

/-- Past the tests that count alive slots the inversion decides. -/
theorem decodeMatrix_of_enough_alive {S : Nat} (hfits : s.Fits S) (hk : s.k.toNat ≤ s.aliveBelow s.n) :
    decodeMatrix s = (matInv s.tables s.k.toNat (submatrix s)).elim (.error .singularMatrix) .ok := by
  have hlen := hk.trans (aliveBelow_le_length _)
  have hpos := hfits.kPos
  have hid : selectedId s (s.k.toNat - 1) < s.n := (selectedId_lt_iff hlen (by omega) _).mpr (by omega)
  rw [decodeMatrix, hfits.descriptorError_eq]
  exact (if_neg (Nat.not_lt_of_le hlen)).trans (if_neg (Nat.not_le_of_lt hid))

end DecodeMatrix

/-! ## The inverse of the selected rows (46_decoder.md R242) -/

theorem identity_comm (i j : Nat) : identity i j = identity j i := by
  rw [identity, identity]
  simp only [eq_comm]

section LeftInverse
variable {m i : Nat} {V M : Matrix}

theorem matMul_identity_left (hi : i < m) (B : Matrix) (j : Nat) :
    matMul (Tables.build Config.gen) m identity B i j = B i j := by
  rw [matMul_eq_mulVec, mulVec_of_identity_row hi fun _ _ => rfl]

variable (hV : productIsIdentity (Tables.build Config.gen) m V M)
include hV

/-- A left inverse takes the image of a vector back to the vector. -/
theorem mulVec_mulVec_of_productIsIdentity (hi : i < m) (u : Nat → Byte) : mulVec m V (mulVec m M u) i = u i := by
  rw [← mulVec_matMul, mulVec_of_identity_row hi (hV i · hi)]

/-- Where a matrix has a left inverse `mat_inv` finds it. -/
theorem exists_matInv_of_leftInverse :
    ∃ C, matInv (Tables.build Config.gen) m M = some C ∧ ∀ i j, i < m → j < m → C i j = V i j := by
  cases hC : matInv (Tables.build Config.gen) m M with
  | none =>
    obtain ⟨u, ⟨c, hc, hne⟩, hzero⟩ := matInv_none hC
    refine absurd ?_ hne
    rw [← mulVec_mulVec_of_productIsIdentity hV hc u, mulVec_congr (fun _ _ => rfl) hzero, mulVec_zero]
  | some C =>
    refine ⟨C, rfl, fun i j hi hj => ?_⟩
    have hcolumn : ∀ r, r < m → mulVec m M (fun l => C l j) r = identity j r := fun r hr => by
      rw [← matMul_eq_mulVec, productIsIdentity_right_of_matInv hC r j hr hj, identity_comm]
    calc C i j
      _ = mulVec m V (mulVec m M fun l => C l j) i := (mulVec_mulVec_of_productIsIdentity hV hi fun l => C l j).symm
      _ = mulVec m V (identity j) i := mulVec_congr (fun _ _ => rfl) hcolumn
      _ = V i j := mulVec_identity hj

end LeftInverse

/-! ## What DECODE writes (46_decoder.md R236, R243) -/

section DecodeCommit
variable {s : State}

theorem decodeCommit_stored_pay (V : Matrix) (a : Nat) :
    (decodeCommit s V).stored .pay a = if a < s.size.toNat then some (recoveredByte s V a) else s.stored .pay a := by
  rw [decodeCommit_eq, State.setReg_stored, State.stored_memWriteMany]
  by_cases ha : a < s.size.toNat <;> simp [ha]

/-- Only the recovered bytes below `SIZE` matter. -/
theorem decodeCommit_congr {V C : Matrix} (h : ∀ a, a < s.size.toNat → recoveredByte s V a = recoveredByte s C a) :
    decodeCommit s V = decodeCommit s C := by
  rw [decodeCommit_eq, decodeCommit_eq, List.map_congr_left fun a ha => h a (List.mem_range.mp ha)]

theorem recoveredByte_entry (V : Matrix) {i b : Nat} (hb : b < s.shardSize) :
    recoveredByte s V (i * s.shardSize + b) =
      matMul s.tables s.k.toNat V (selectedBytes s) i b ^^^ ks s.key b := by
  have hdiv : (i * s.shardSize + b) / s.shardSize = i := by
    rw [Nat.mul_comm, Nat.mul_add_div (by omega), Nat.div_eq_of_lt hb, Nat.add_zero]
  rw [recoveredByte, hdiv, Nat.mul_add_mod_of_lt hb]

variable {S : Nat} (hfits : s.Fits S)
include hfits

theorem shardSize_pos_of_lt_size {a : Nat} (ha : a < s.size.toNat) : 0 < s.shardSize := by
  rw [hfits.shardSize_eq]
  exact Nat.pos_of_lt_mul_right (ha.trans_le hfits.ceil.1)

/-- Below `SIZE` stand the bytes of `K` blocks. -/
theorem block_lt_of_lt_size {a : Nat} (ha : a < s.size.toNat) : a / s.shardSize < s.k.toNat := by
  rw [hfits.shardSize_eq]
  exact Nat.div_lt_of_lt_mul (ha.trans_le hfits.ceil.1)

/-- DECODE multiplies with the inverse of the selected rows, whichever matrix it is given as. -/
theorem exec_decode_of_leftInverse (htab : s.tablesBuilt) (hk : s.k.toNat ≤ s.aliveBelow s.n) {V : Matrix}
    (hV : productIsIdentity s.tables s.k.toNat V (submatrix s)) :
    exec .decode s = .next ((decodeCommit s V).respond 0) := by
  rw [htab] at hV
  obtain ⟨C, hC, hCV⟩ := exists_matInv_of_leftInverse hV
  have hok : decodeMatrix s = .ok C := by
    rw [decodeMatrix_of_enough_alive hfits hk, htab, hC, Option.elim_some]
  have hsame : decodeCommit s C = decodeCommit s V := decodeCommit_congr fun a ha => by
    have hrow := block_lt_of_lt_size hfits ha
    rw [recoveredByte, recoveredByte, matMul, matMul, xorSum_congr fun l hl => by rw [hCV _ l hrow hl]]
  rw [exec_decode_of_ok hok, hsame]

/-- The payload and what else DECODE leaves, from the inverse of the selected rows. -/
theorem exec_decode_writes (htab : s.tablesBuilt) (hk : s.k.toNat ≤ s.aliveBelow s.n) {V : Matrix}
    (hV : productIsIdentity s.tables s.k.toNat V (submatrix s)) :
    ∃ t, exec .decode s = .next t ∧ t = { s with pay := t.pay, shard := BitVec.ofNat 32 S, rsp := some ⟨.ok, 0⟩ } ∧
      (∀ i b, b < S → i * S + b < s.size.toNat →
        t.stored .pay (i * S + b) = some (matMul s.tables s.k.toNat V (selectedBytes s) i b ^^^ ks s.key b)) ∧
      (∀ a, s.size.toNat ≤ a → t.stored .pay a = s.stored .pay a) := by
  refine ⟨_, exec_decode_of_leftInverse hfits htab hk hV, ?_, fun i b hb ha => ?_, fun a ha => ?_⟩
  · rw [← hfits.shardSize_eq]
    rfl
  · rw [← hfits.shardSize_eq] at hb ha ⊢
    rw [State.respond_stored, decodeCommit_stored_pay, if_pos ha, recoveredByte_entry V hb]
  · rw [State.respond_stored, decodeCommit_stored_pay, if_neg (Nat.not_lt_of_le ha)]

end DecodeCommit

/-! ## All data fragments alive (46_decoder.md R248) -/

section DataFragments
variable {s : State} {f : Nat → BitVec 8} (hk256 : s.k.toNat ≤ 256)
  (hf : ∀ i, i < s.k.toNat → s.slot (f i) = ⟨true, true, BitVec.ofNat 8 i⟩)
include hk256 hf

theorem dataFragment_id {i : Nat} (hi : i < s.k.toNat) : (s.slot (f i)).id.toNat = i := by
  rw [hf i hi]
  exact Nat.mod_eq_of_lt (hi.trans_le hk256)

theorem exists_sortedAlive_index_of_dataFragment {i : Nat} (hi : i < s.k.toNat) :
    ∃ (j : Nat) (hj : j < (sortedAlive s).length), (sortedAlive s)[j] = f i ∧
      s.aliveBelow i ≤ j ∧ j < s.aliveBelow (i + 1) := by
  have halive : f i ∈ aliveSlots s := by simp [mem_aliveSlots, hf i hi]
  exact exists_sortedAlive_index halive (dataFragment_id hk256 hf hi)

theorem aliveBelow_add_le {i d : Nat} (h : i + d ≤ s.k.toNat) : s.aliveBelow i + d ≤ s.aliveBelow (i + d) := by
  induction d with
  | zero => exact Nat.le_refl _
  | succ d ih =>
    obtain ⟨j, -, -, hle, hlt⟩ := exists_sortedAlive_index_of_dataFragment hk256 hf (i := i + d) (by omega)
    have hprev := ih (by omega)
    rw [← Nat.add_assoc i d 1]
    omega

variable (hcount : s.aliveBelow s.k.toNat = s.k.toNat)
include hcount

/-- With one alive slot for each id below `K`, as many ids as `i` are below `i`. -/
theorem aliveBelow_eq_self {i : Nat} (hi : i ≤ s.k.toNat) : s.aliveBelow i = i := by
  have hlow := aliveBelow_add_le hk256 hf (i := 0) (d := i) (by omega)
  have hhigh := aliveBelow_add_le hk256 hf (i := i) (d := s.k.toNat - i) (by omega)
  rw [Nat.zero_add] at hlow
  rw [Nat.add_sub_cancel' hi] at hhigh
  omega

theorem selectedSlot_eq_dataFragment {i : Nat} (hi : i < s.k.toNat) : selectedSlot s i = f i := by
  obtain ⟨j, hj, hslot, hle, hlt⟩ := exists_sortedAlive_index_of_dataFragment hk256 hf hi
  rw [aliveBelow_eq_self hk256 hf hcount hi.le] at hle
  rw [aliveBelow_eq_self hk256 hf hcount hi] at hlt
  obtain rfl : i = j := by omega
  rw [selectedSlot_eq_getElem hi hj, hslot]

theorem submatrix_eq_identity {i : Nat} (hi : i < s.k.toNat) : submatrix s i = identity i := by
  have hid : selectedId s i = i := by
    rw [selectedId, selectedSlot_eq_dataFragment hk256 hf hcount hi, dataFragment_id hk256 hf hi]
  rw [← build_of_lt (t := s.tables) hi]
  funext j
  rw [submatrix, hid]

end DataFragments

/-! ## Fragments of one dataset (46_decoder.md R244) -/

/-- Every fragment is a row of the generator matrix times the scrambled blocks (45_encoder.md R216). -/
theorem fragmentByte_eq_matMul {s : State} (htab : s.tablesBuilt) (id b : Nat) :
    fragmentByte s id b = matMul s.tables s.k.toNat (build s.tables s.k.toNat) (scrambledBlock s) id b := by
  rw [fragmentByte]
  split
  next hid => rw [htab, matMul_eq_mulVec, mulVec_of_identity_row hid fun c _ => by rw [build_of_lt hid]]
  next hid => rw [parityBlock, Nat.add_sub_cancel' (Nat.le_of_not_lt hid)]

theorem submatrix_eq_selectRows {s : State} (htab : s.tablesBuilt) :
    submatrix s = selectRows s.k.toNat (selectedId s) := by
  funext l j
  rw [submatrix, selectRows, htab]

/-- `t` has the descriptor of `s`, and every alive slot holds the fragment that has the slot's number as its id. -/
structure HoldsFragments (s t : State) : Prop where
  cfg : t.cfg = s.cfg
  tables : t.tables = s.tables
  k : t.k = s.k
  r : t.r = s.r
  key : t.key = s.key
  size : t.size = s.size
  id : ∀ x ∈ aliveSlots t, x.toNat < s.n ∧ (t.slot x).id = x
  stored : ∀ (x : BitVec 8) (b : Nat), x.toNat < s.n → b < s.shardSize →
    t.stored (.frag x) b = some (fragmentByte s x.toNat b)

/-- ENCODE leaves the fragments of its payload, whichever slots are then alive. -/
theorem holdsFragments_of_encodeCommit {s t : State} (hcfg : t.cfg = s.cfg) (htables : t.tables = s.tables) (hk : t.k = s.k)
    (hr : t.r = s.r) (hkey : t.key = s.key) (hsize : t.size = s.size) (hfrag : t.frag = (encodeCommit s).frag)
    (hslot : ∀ x, (t.slot x).valid = ((encodeCommit s).slot x).valid ∧ (t.slot x).id = ((encodeCommit s).slot x).id) :
    HoldsFragments s t where
  cfg := hcfg
  tables := htables
  k := hk
  r := hr
  key := hkey
  size := hsize
  id x hx := by
    obtain ⟨hvalid, -⟩ := mem_aliveSlots.mp hx
    obtain ⟨hsame, hid⟩ := hslot x
    rw [hvalid, encodeCommit_slot] at hsame
    rw [hid, encodeCommit_slot]
    split at hsame
    next hlt => exact ⟨hlt, by rw [if_pos hlt]⟩
    · cases hsame
  stored x b hx hb := by
    have hmem : t.mem (.frag x) = (encodeCommit s).mem (.frag x) := congrArg (·[x.toNat]) hfrag
    rw [State.stored, hmem, ← State.stored, encodeCommit_stored_frag, if_pos ⟨hx, hb⟩]

section HoldsFragments
variable {s t : State} (h : HoldsFragments s t)
include h

theorem HoldsFragments.n_eq : t.n = s.n := by rw [State.n, State.n, h.k, h.r]

theorem HoldsFragments.shardSize_eq : t.shardSize = s.shardSize := by
  rw [State.shardSize, State.shardSize, h.k, h.size]

theorem HoldsFragments.fits {S : Nat} (hfits : s.Fits S) : t.Fits S where
  kPos := h.k ▸ hfits.kPos
  nMax := h.k ▸ h.r ▸ hfits.nMax
  ceil := h.k ▸ h.size ▸ hfits.ceil
  pay := h.cfg ▸ h.size ▸ hfits.pay
  slot := h.cfg ▸ hfits.slot

/-- No alive id is out of range. -/
theorem HoldsFragments.aliveBelow_n : t.aliveBelow t.n = (aliveSlots t).length :=
  aliveBelow_eq_length fun x hx => by
    obtain ⟨hlt, hid⟩ := h.id x hx
    rwa [hid, h.n_eq]

variable (hk : t.k.toNat ≤ (aliveSlots t).length)
include hk

theorem HoldsFragments.selectedId_eq_slot {l : Nat} (hl : l < t.k.toNat) :
    selectedId t l = (selectedSlot t l).toNat := by
  rw [selectedId, (h.id _ (selectedSlot_mem_aliveSlots hk hl)).2]

theorem HoldsFragments.selectedSlot_lt {l : Nat} (hl : l < t.k.toNat) : (selectedSlot t l).toNat < s.n :=
  (h.id _ (selectedSlot_mem_aliveSlots hk hl)).1

theorem HoldsFragments.selectedId_inj {l m : Nat} (hl : l < t.k.toNat) (hm : m < t.k.toNat)
    (heq : selectedId t l = selectedId t m) : l = m := by
  refine selectedSlot_inj hk hl hm (BitVec.eq_of_toNat_eq ?_)
  rw [← h.selectedId_eq_slot hk hl, ← h.selectedId_eq_slot hk hm, heq]

/-- The selected fragments are the selected rows times the scrambled blocks. -/
theorem HoldsFragments.selectedBytes_eq (htab : s.tablesBuilt) {l b : Nat} (hl : l < t.k.toNat) (hb : b < t.shardSize) :
    selectedBytes t l b = mulVec t.k.toNat (submatrix t) (fun i => scrambledBlock s i b) l := by
  rw [h.shardSize_eq] at hb
  rw [selectedBytes, State.memRead_of_stored (h.stored _ b (h.selectedSlot_lt hk hl) hb), ← h.selectedId_eq_slot hk hl,
    fragmentByte_eq_matMul htab,
    submatrix_eq_selectRows (h.tables.trans htab), h.k, htab, matMul_eq_mulVec]
  exact mulVec_congr (fun _ _ => rfl) fun _ _ => rfl

/-- Any alive slots select distinct rows of the generator matrix, which have an inverse (41_generator_matrix.md R145). -/
theorem HoldsFragments.exists_leftInverse {S : Nat} (htab : s.tablesBuilt) (hfits : s.Fits S) :
    ∃ V, productIsIdentity t.tables t.k.toNat V (submatrix t) := by
  have htfits := h.fits hfits
  have hrange : ∀ l, l < t.k.toNat → selectedId t l < t.n := fun l hl => by
    rw [h.selectedId_eq_slot hk hl, h.n_eq]
    exact h.selectedSlot_lt hk hl
  obtain ⟨hdistinct, -⟩ := Proofs.anyDistinctRowsInvert t.n t.k.toNat (selectedId t) htfits.kPos (Nat.le_add_right _ _)
    htfits.nMax hrange
  obtain ⟨V, -, hV⟩ := hdistinct fun l m hl hm => h.selectedId_inj hk hl hm
  have htab' : t.tablesBuilt := h.tables.trans htab
  rw [submatrix_eq_selectRows htab', htab']
  exact ⟨V, hV⟩

/-- A left inverse of the selected rows recovers the payload. -/
theorem HoldsFragments.recoveredByte_eq {S : Nat} (htab : s.tablesBuilt) (hfits : s.Fits S) {V : Matrix}
    (hV : productIsIdentity t.tables t.k.toNat V (submatrix t)) {a : Nat} (ha : a < t.size.toNat) :
    recoveredByte t V a = s.memRead .pay a := by
  have hrow := block_lt_of_lt_size (h.fits hfits) ha
  have hpos := shardSize_pos_of_lt_size (h.fits hfits) ha
  have hblock : matMul t.tables t.k.toNat V (selectedBytes t) (a / t.shardSize) (a % t.shardSize) =
      scrambledBlock s (a / t.shardSize) (a % t.shardSize) := by
    rw [h.tables, htab] at hV ⊢
    rw [matMul_eq_mulVec, ← mulVec_mulVec_of_productIsIdentity hV hrow fun i => scrambledBlock s i (a % t.shardSize)]
    exact mulVec_congr (fun _ _ => rfl) fun l hl => h.selectedBytes_eq hk htab hl (Nat.mod_lt _ hpos)
  rw [recoveredByte, hblock, scrambledBlock, h.key, BitVec.xor_assoc, BitVec.xor_self, BitVec.xor_zero, h.shardSize_eq,
    Nat.div_add_mod', paddedByte, if_pos (h.size ▸ ha)]

end HoldsFragments

/-! ## What DECODE does not read (46_decoder.md R248, R245) -/

/-- The state `s` with other fragment memory, other banks, another `SCR` and another `KEY`. -/
def State.withFragMatScrKey (s : State) (f : Vector Memory 256) (m : Vector Memory 4) (v key : Word) : State :=
  { s with frag := f, mat := m, scr := v, key := key }

section Unread
variable {s : State} {f : Vector Memory 256} {m : Vector Memory 4} {v key : Word}

@[simp] theorem State.withFragMatScrKey_size : (s.withFragMatScrKey f m v key).size = s.size := rfl

theorem selectedSlots_withFragMatScrKey : selectedSlots (s.withFragMatScrKey f m v key) = selectedSlots s := by
  rw [selectedSlots, selectedSlots, sortById_eq_insertionSort, sortById_eq_insertionSort]
  rfl

theorem selectedSlot_withFragMatScrKey : selectedSlot (s.withFragMatScrKey f m v key) = selectedSlot s := by
  funext l
  rw [selectedSlot, selectedSlots_withFragMatScrKey, selectedSlot]

theorem selectedId_withFragMatScrKey : selectedId (s.withFragMatScrKey f m v key) = selectedId s := by
  funext l
  rw [selectedId, selectedSlot_withFragMatScrKey]
  rfl

/-- The tests and the inverse come from the descriptor and the headers. -/
theorem decodeMatrix_withFragMatScrKey : decodeMatrix (s.withFragMatScrKey f m v key) = decodeMatrix s := by
  have hsub : submatrix (s.withFragMatScrKey f m v key) = submatrix s := by
    funext l j
    rw [submatrix, selectedId_withFragMatScrKey]
    rfl
  rw [decodeMatrix, hsub, selectedId_withFragMatScrKey]
  rfl

/-- Of fragment memory DECODE reads the selected slots, and `KEY` it only adds. -/
theorem recoveredByte_withFragMatScrKey (hk : s.k.toNat ≤ (aliveSlots s).length)
    (hfrag : ∀ x ∈ selectedSlots s, (s.withFragMatScrKey f m v key).mem (.frag x) = s.mem (.frag x))
    (V : Matrix) (a : Nat) :
    recoveredByte (s.withFragMatScrKey f m v key) V a =
      recoveredByte s V a ^^^ ks s.key (a % s.shardSize) ^^^ ks key (a % s.shardSize) := by
  have hbytes {l : Nat} (hl : l < s.k.toNat) (t : Nat) :
      selectedBytes (s.withFragMatScrKey f m v key) l t = selectedBytes s l t := by
    rw [selectedBytes, selectedBytes, selectedSlot_withFragMatScrKey, State.memRead, State.stored,
      hfrag _ (selectedSlot_mem_selectedSlots hk hl)]
    rfl
  have hblock : matMul s.tables s.k.toNat V (selectedBytes (s.withFragMatScrKey f m v key)) =
      matMul s.tables s.k.toNat V (selectedBytes s) := by
    funext i t
    exact xorSum_congr fun l hl => by rw [hbytes hl]
  rw [recoveredByte, recoveredByte, BitVec.xor_assoc _ _ (ks s.key _), BitVec.xor_self, BitVec.xor_zero, ← hblock]
  rfl

end Unread

end Sys2Proof.Machine

namespace Sys2Proof.Proofs

open Sys2Proof.Machine

/-- Settles O37: the last of the `K` smallest ids is below `K + R` exactly where `K` alive ids are. -/
theorem decodeTestsInOrder : Obligations.DecodeTestsInOrder := by
  refine ⟨decode_encode (i := .decode) rfl, fun s => descriptorTestsFirst_of_raises fun e he =>
    exec_decode_of_error (decodeMatrix_of_descriptorError he), fun s S hfits => ⟨fun hfew => ?_, fun hk hrange => ?_⟩⟩
  · rw [aliveBelow_256] at hfew
    exact exec_decode_of_error (decodeMatrix_of_few_alive hfits.descriptorError_eq hfew)
  · rw [aliveBelow_256] at hk
    have hpos := hfits.kPos
    have hid : ¬selectedId s (s.k.toNat - 1) < s.n := fun h => by
      have hlt : s.k.toNat - 1 < s.aliveBelow s.n := (selectedId_lt_iff hk (by omega) _).mp h
      rw [State.n] at hlt
      omega
    exact exec_decode_of_error
      (decodeMatrix_of_id_out_of_range hfits.descriptorError_eq hk (Nat.le_of_not_lt hid))

/-- Settles O38: the sorted list of the alive slots rises, and the selection is its first `K` entries. -/
theorem selectionTakesSmallestIds : Obligations.SelectionTakesSmallestIds := by
  intro s hk
  rw [aliveBelow_256] at hk
  refine ⟨selectedSlots_length hk, fun x hx => mem_aliveSlots.mp (mem_sortedAlive.mp (List.mem_of_mem_take hx)),
    sortedAlive_pairwise_before.take, fun x hx y hvalid halive hy => ?_⟩
  have hsorted := List.take_append_drop s.k.toNat (sortedAlive s)
  have hmem : y ∈ sortedAlive s := mem_sortedAlive.mpr (mem_aliveSlots.mpr ⟨hvalid, halive⟩)
  have hdrop : y ∈ (sortedAlive s).drop s.k.toNat := by
    rw [← hsorted] at hmem
    exact (List.mem_append.mp hmem).resolve_left hy
  have hrises := sortedAlive_pairwise_before (s := s)
  rw [← hsorted] at hrises
  obtain ⟨-, -, hacross⟩ := List.pairwise_append.mp hrises
  exact hacross x hx y hdrop

/-- Settles O39: the inverse that DECODE computes is the given one. -/
theorem decodeWritesPayload : Obligations.DecodeWritesPayload := by
  intro s S V htab hfits hk hV
  obtain ⟨t, ht, hframe, hpay, hrest⟩ := exec_decode_writes hfits htab hk hV
  exact ⟨t, ht, hframe, fun i b _ hb ha => hpay i b hb ha, hrest⟩

/-- Settles O40: the counts put one id into two neighbouring rows of the submatrix. -/
theorem duplicateSelectedIdIsSingular : Obligations.DuplicateSelectedIdIsSingular := by
  intro s S v htab hfits hk htwice hselected
  have hlen := hk.trans (aliveBelow_le_length _)
  have hfirst : selectedId s (s.aliveBelow v) = v := selectedId_eq hlen (by omega) (by omega) (by omega)
  have hsecond : selectedId s (s.aliveBelow v + 1) = v := selectedId_eq hlen (by omega) (by omega) (by omega)
  have hnone : matInv (Tables.build Config.gen) s.k.toNat (submatrix s) = none :=
    matInv_eq_none_of_equal_rows (l := s.aliveBelow v) (l' := s.aliveBelow v + 1) (by omega) (by omega) (by omega)
      fun c _ => by rw [submatrix, submatrix, hfirst, hsecond]
  refine exec_decode_of_error ?_
  rw [decodeMatrix_of_enough_alive hfits hk, htab, hnone, Option.elim_none]

/-- Settles O41: the selected slots are those of the data fragments in order, and the submatrix is the identity. -/
theorem decodeOfDataFragments : Obligations.DecodeOfDataFragments := by
  intro s S f htab hfits hf hcount
  have hk256 : s.k.toNat ≤ 256 := (Nat.le_add_right _ _).trans hfits.nMax
  have hk : s.k.toNat ≤ s.aliveBelow s.n :=
    hcount.symm.trans_le (aliveBelow_mono (Nat.le_add_right _ _))
  have hV : productIsIdentity s.tables s.k.toNat identity (submatrix s) := fun i j hi _ => by
    rw [htab, matMul_identity_left hi, submatrix_eq_identity hk256 hf hcount hi]
  obtain ⟨t, ht, hframe, hpay, hrest⟩ := exec_decode_writes hfits htab hk hV
  refine ⟨t, ht, hframe, fun i b hi hb ha => ?_, hrest⟩
  rw [hpay i b hb ha, htab, matMul_identity_left hi, selectedBytes, selectedSlot_eq_dataFragment hk256 hf hcount hi]

/-- Settles O42: distinct rows of the generator matrix have an inverse, and it takes the selected fragments back to the
scrambled blocks. -/
theorem decodeRecoversEncodedPayload : Obligations.DecodeRecoversEncodedPayload := by
  intro s t t' S htab hfits henc hcfg htables hk hr hkey hsize hfrag hslot halive
  obtain rfl := Host.Outcome.next.inj ((exec_encode_of_none hfits.descriptorError_eq).symm.trans henc)
  have h : HoldsFragments s t' := holdsFragments_of_encodeCommit hcfg htables hk hr hkey hsize hfrag hslot
  have htfits := h.fits hfits
  rw [aliveBelow_256] at halive
  obtain ⟨V, hV⟩ := h.exists_leftInverse halive htab hfits
  refine ⟨_, exec_decode_of_leftInverse htfits (h.tables.trans htab) (halive.trans_eq h.aliveBelow_n.symm) hV, rfl,
    fun a ha => ?_⟩
  rw [← h.size] at ha
  rw [State.respond_stored, decodeCommit_stored_pay, if_pos ha, h.recoveredByte_eq halive htab hfits hV ha]

/-- Settles O43: the key plays no part in the tests, and the keystream is added last. -/
theorem wrongKeyXorsKeystreams : Obligations.WrongKeyXorsKeystreams := by
  intro s t S key' hfits ht hok
  have hkey : { s with key := key' } = s.withFragMatScrKey s.frag s.mat s.scr key' := rfl
  rw [hkey]
  cases hV : decodeMatrix s with
  | error e =>
    rw [exec_decode_of_error hV] at ht
    obtain rfl := Host.Outcome.next.inj ht
    cases hok
  | ok V =>
    rw [exec_decode_of_ok hV] at ht
    obtain rfl := Host.Outcome.next.inj ht
    have hV' : decodeMatrix (s.withFragMatScrKey s.frag s.mat s.scr key') = .ok V := decodeMatrix_withFragMatScrKey.trans hV
    refine ⟨_, exec_decode_of_ok hV', rfl, fun i b _ hb ha => ⟨recoveredByte s V (i * S + b), ?_, ?_⟩⟩
    · rw [State.respond_stored, decodeCommit_stored_pay, if_pos ha]
    · rw [State.respond_stored, decodeCommit_stored_pay, State.withFragMatScrKey_size, if_pos ha,
        recoveredByte_withFragMatScrKey (key := key') (le_length_of_decodeMatrix_ok hV) (fun _ _ => rfl),
        hfits.shardSize_eq, Nat.mul_add_mod_of_lt hb]

/-- Settles O44: the tests read the descriptor and the headers only, and of fragment memory the selected slots are read. -/
theorem decodeReadsOnlySelectedFragments : Obligations.DecodeReadsOnlySelectedFragments := by
  intro s s' hs' hfrag
  obtain ⟨f, m, v, rfl⟩ : ∃ f m v, s' = s.withFragMatScrKey f m v s.key := ⟨_, _, _, hs'⟩
  cases hV : decodeMatrix s with
  | error e =>
    exact ⟨_, _, exec_decode_of_error hV, exec_decode_of_error (decodeMatrix_withFragMatScrKey.trans hV), rfl, rfl, rfl⟩
  | ok V =>
    refine ⟨_, _, exec_decode_of_ok hV, exec_decode_of_ok (decodeMatrix_withFragMatScrKey.trans hV), rfl, ?_, rfl⟩
    have hbytes : recoveredByte (s.withFragMatScrKey f m v s.key) V = recoveredByte s V := by
      funext a
      rw [recoveredByte_withFragMatScrKey (le_length_of_decodeMatrix_ok hV) hfrag, BitVec.xor_assoc, BitVec.xor_self,
        BitVec.xor_zero]
    rw [State.respond_pay, State.respond_pay, decodeCommit_eq, hbytes]
    rfl

end Sys2Proof.Proofs
end

section
/-! Host access: one equation per outcome of a register, byte or header command, and from them the statements of
47_host_access.md. -/

namespace Sys2Proof.Machine

/-! ## Registers (10_state.md R22, 47_host_access.md R261, R262) -/

/-- Every register is found by its number, and by no other. -/
theorem RegName.ofNumber_eq_some {b : BitVec 8} {x : RegName} : RegName.ofNumber b = some x ↔ x.number = b := by
  constructor
  · intro h
    simpa using List.find?_some h
  · rintro rfl
    cases x <;> rfl

theorem RegName.number_le (x : RegName) : x.number.toNat ≤ 5 := by cases x <;> decide

theorem RegName.number_le_of_hostWritable {x : RegName} : x.hostWritable = true → x.number.toNat ≤ 3 := by
  cases x <;> decide

theorem RegName.ofNumber_eq_none {b : BitVec 8} (h : 5 < b.toNat) : RegName.ofNumber b = none := by
  refine Option.eq_none_iff_forall_ne_some.mpr fun x hx => ?_
  rw [← RegName.ofNumber_eq_some.mp hx] at h
  exact Nat.not_lt_of_le x.number_le h

section Registers
variable (s : State)

theorem exec_rdreg_number (x : RegName) : exec (.rdreg x.number) s = .next (s.respond (s.reg x)) := by
  rw [exec, execRdreg, RegName.ofNumber_eq_some.mpr rfl, complete_ok]

theorem exec_rdreg_of_gt {reg : BitVec 8} (h : 5 < reg.toNat) :
    exec (.rdreg reg) s = .next (s.raise .illegalCommand) := by
  rw [exec, execRdreg, RegName.ofNumber_eq_none h, complete_error]

theorem exec_wrreg_number {x : RegName} (hx : x.hostWritable = true) (v : Word) :
    exec (.wrreg x.number v) s = .next ((s.setReg x v).respond 0) := by
  rw [exec, execWrreg, RegName.ofNumber_eq_some.mpr rfl]
  exact congrArg (complete s) (if_pos hx)

theorem exec_wrreg_of_gt {reg : BitVec 8} (h : 3 < reg.toNat) (v : Word) :
    exec (.wrreg reg v) s = .next (s.raise .illegalCommand) := by
  rw [exec, execWrreg]
  cases hname : RegName.ofNumber reg with
  | none => rw [complete_error]
  | some x =>
    have hx : ¬x.hostWritable = true := fun hw => by
      have hle := RegName.number_le_of_hostWritable hw
      rw [RegName.ofNumber_eq_some.mp hname] at hle
      exact Nat.not_lt_of_le hle h
    exact congrArg (complete s) (if_neg hx)

end Registers

/-! ## Bytes (20_memory.md R69, 47_host_access.md R272) -/

section Bytes
variable {s : State} {sp : Space} {a : Nat}

theorem readByte_of_ge (h : spaceSize s.cfg sp ≤ a) : readByte sp a s = .next (s.raise .illegalCommand) := by
  rw [readByte, if_pos h, complete_error]

/-- A read of a location that exists answers a byte, the stored one where one is stored, and changes nothing else. -/
theorem readByte_answers (h : a < spaceSize s.cfg sp) :
    ∃ v : Byte, readByte sp a s = .next (s.respond (v.setWidth 32)) ∧ ∀ u, s.stored sp a = some u → v = u :=
  ⟨s.memRead sp a, readByte_of_lt h, fun _ => State.memRead_of_stored⟩

theorem State.stored_memWrite_same (s : State) (sp : Space) (a : Nat) (x : Byte) :
    (s.memWrite sp a x).stored sp a = some x := by
  rw [State.stored_memWrite, if_pos ⟨rfl, rfl⟩]

theorem State.stored_memWrite_of_ne {sp' : Space} {a' : Nat} (h : ¬(sp' = sp ∧ a' = a)) (x : Byte) :
    (s.memWrite sp a x).stored sp' a' = s.stored sp' a' := by
  rw [State.stored_memWrite, if_neg h]

end Bytes

/-! ## Slot headers (47_host_access.md R267, R268, R269) -/

section Headers
variable (s : State) (slot : BitVec 8)

theorem exec_wrslot (id : Byte) (valid alive : Bool) :
    exec (.wrslot slot id valid alive) s = .next ((s.setSlot slot ⟨valid, alive, id⟩).respond 0) := by
  rw [exec, execWrslot, complete_ok]

theorem exec_alive (v : Bool) :
    exec (.alive slot v) s = .next ((s.setSlot slot { s.slot slot with alive := v }).respond 0) := by
  rw [exec, execAlive, complete_ok]

theorem exec_rdslot : exec (.rdslot slot) s = .next (s.respond (s.slot slot).word) := by
  rw [exec, execRdslot, complete_ok]

theorem State.slot_setSlot_same (h : Slot) : (s.setSlot slot h).slot slot = h := by
  rw [State.slot_setSlot, if_pos rfl]

theorem State.slot_setSlot_of_ne {x : BitVec 8} (hx : x ≠ slot) (h : Slot) :
    (s.setSlot slot h).slot x = s.slot x := by
  rw [State.slot_setSlot, if_neg hx]

/-- Writing the header that a slot has changes nothing. -/
theorem State.setSlot_slot : s.setSlot slot (s.slot slot) = s := by
  rw [State.setSlot, State.slot, Vector.set_getElem_self]

/-- `ALIVE` leaves a slot as it is whose bit has the value already, but for the answer. -/
theorem exec_alive_of_eq {v : Bool} (hv : (s.slot slot).alive = v) : exec (.alive slot v) s = .next (s.respond 0) := by
  subst hv
  rw [exec_alive, State.setSlot_slot]

end Headers

section HeaderWord
variable (h : Slot)

/-! The concatenation is taken apart before the full `simp`, which would turn the bit into an index first. -/

theorem Slot.word_bit9 : h.word.getLsbD 9 = h.valid := by
  simp only [Slot.word, BitVec.getLsbD_append]
  simp

theorem Slot.word_bit8 : h.word.getLsbD 8 = h.alive := by
  simp only [Slot.word, BitVec.getLsbD_append]
  simp

theorem Slot.word_id : h.word.extractLsb' 0 8 = h.id := BitVec.extractLsb'_append_eq_right

theorem Slot.word_upper : h.word.extractLsb' 10 22 = 0 := by
  rw [Slot.word, BitVec.extractLsb'_append_eq_of_le (by decide), BitVec.extractLsb'_append_eq_of_le (by decide)]
  exact BitVec.extractLsb'_append_eq_left

end HeaderWord

end Sys2Proof.Machine

namespace Sys2Proof.Proofs

open Sys2Proof.Machine

/-- Settles O45: a number names the register it stands for, and a number above 5 names none. -/
theorem rdregAnswersRegister : Obligations.RdregAnswersRegister :=
  ⟨fun reg => decode_encode (i := .rdreg reg) rfl, fun s =>
    ⟨exec_rdreg_number s .k, exec_rdreg_number s .r, exec_rdreg_number s .key, exec_rdreg_number s .size,
      exec_rdreg_number s .shard, exec_rdreg_number s .scr, fun _ => exec_rdreg_of_gt s⟩⟩

/-- Settles O46: the four registers that the host may write have the numbers up to 3. -/
theorem wrregWritesRegister : Obligations.WrregWritesRegister :=
  ⟨fun reg v => decode_encode (i := .wrreg reg v) rfl, fun s v =>
    ⟨exec_wrreg_number s (x := .k) rfl v, exec_wrreg_number s (x := .r) rfl v, exec_wrreg_number s (x := .key) rfl v,
      exec_wrreg_number s (x := .size) rfl v, fun _ h => exec_wrreg_of_gt s h v⟩⟩

/-- Settles O47: RDPAY reads a byte of the payload, whose size is PAY_MAX. -/
theorem rdpayAnswersByte : Obligations.RdpayAnswersByte :=
  ⟨fun addr => decode_encode (i := .rdpay addr) rfl, fun _ _ =>
    ⟨readByte_answers (sp := .pay), readByte_of_ge (sp := .pay)⟩⟩

/-- Settles O48: WRPAY writes a byte of the payload. -/
theorem wrpayWritesByte : Obligations.WrpayWritesByte := by
  refine ⟨fun addr x => decode_encode (i := .wrpay addr x) rfl, fun s addr x =>
    ⟨fun h => ⟨_, writeByte_of_lt (sp := .pay) h, rfl, ?_, fun a ha => ?_⟩, writeByte_of_ge (sp := .pay)⟩⟩
  · rw [State.respond_stored, State.stored_memWrite_same]
  · rw [State.respond_stored, State.stored_memWrite_of_ne fun hsame => ha hsame.2]

/-- Settles O49: RDFRAG reads a byte of the slot's fragment memory, and `readByte` looks at no header. -/
theorem rdfragAnswersByte : Obligations.RdfragAnswersByte :=
  ⟨fun slot off => decode_encode (i := .rdfrag slot off) rfl, fun _ slot _ =>
    ⟨readByte_answers (sp := .frag slot), readByte_of_ge (sp := .frag slot)⟩⟩

/-- Settles O50: WRFRAG writes a byte of the slot's fragment memory. -/
theorem wrfragWritesByte : Obligations.WrfragWritesByte := by
  refine ⟨fun slot off x => decode_encode (i := .wrfrag slot off x) rfl, fun s slot off x =>
    ⟨fun h => ⟨_, writeByte_of_lt (sp := .frag slot) h, rfl, ?_, fun y a hne => ?_⟩,
      writeByte_of_ge (sp := .frag slot)⟩⟩
  · rw [State.respond_stored, State.stored_memWrite_same]
  · rw [State.respond_stored, State.stored_memWrite_of_ne fun ⟨hsp, ha⟩ => hne ⟨Space.frag.inj hsp, ha⟩]

/-- Settles O51, by the laws of `setSlot`. -/
theorem wrslotWritesHeader : Obligations.WrslotWritesHeader :=
  ⟨fun slot id valid alive => decode_encode (i := .wrslot slot id valid alive) rfl, fun s slot id valid alive =>
    ⟨_, exec_wrslot s slot id valid alive, rfl, State.slot_setSlot_same .., fun _ hx =>
      State.slot_setSlot_of_ne s slot hx _⟩⟩

/-- Settles O52: the second `ALIVE` finds the bit as it would write it. -/
theorem aliveWritesOneBit : Obligations.AliveWritesOneBit := by
  refine ⟨fun slot v => decode_encode (i := .alive slot v) rfl, fun s slot v =>
    ⟨_, exec_alive s slot v, rfl, State.slot_setSlot_same .., fun _ hx => State.slot_setSlot_of_ne s slot hx _, ?_⟩⟩
  have hbit : (((s.setSlot slot { s.slot slot with alive := v }).respond 0).slot slot).alive = v := by
    rw [State.respond_slot, State.slot_setSlot_same]
  exact exec_alive_of_eq _ slot hbit

/-- Settles O53: the answer is the header's word, read bit by bit. -/
theorem rdslotAnswersHeader : Obligations.RdslotAnswersHeader :=
  ⟨fun slot => decode_encode (i := .rdslot slot) rfl, fun s slot =>
    ⟨_, exec_rdslot s slot, Slot.word_bit9 _, Slot.word_bit8 _, Slot.word_id _, Slot.word_upper _⟩⟩

/-- Settles O54: RDMAT reads a byte of the bank, and every offset of 16 bits lies in a bank (20_memory.md R60). -/
theorem rdmatAnswersByte : Obligations.RdmatAnswersByte :=
  ⟨fun b off => decode_encode (i := .rdmat b off) rfl, fun _ b off => readByte_answers (sp := .mat b) off.isLt⟩

/-- Settles O55: WRMAT writes a byte of the bank, which has every offset of 16 bits. -/
theorem wrmatWritesByte : Obligations.WrmatWritesByte := by
  refine ⟨fun b off x => decode_encode (i := .wrmat b off x) rfl, fun s b off x =>
    ⟨_, writeByte_of_lt (sp := .mat b) off.isLt, rfl, ?_, fun y a hne => ?_⟩⟩
  · rw [State.respond_stored, State.stored_memWrite_same]
  · rw [State.respond_stored, State.stored_memWrite_of_ne fun ⟨hsp, ha⟩ => hne ⟨Space.mat.inj hsp, ha⟩]

end Sys2Proof.Proofs
end

section
/-! Errors and resets: what an error answer says about the state before it, the condition of each error code by command, and
the steps that take no command. -/

namespace Sys2Proof.Machine

/-! ## Steps without a command -/

theorem step_idle {s : State} (hin : s.inputs = []) : step s = .next s := by
  rw [step, hin]

/-- A reset does not look at the word it interrupts. -/
theorem step_reset {s : State} {e : HostEvent} {rest : List HostEvent} (hin : s.inputs = e :: rest)
    (he : e = .reset ∨ ∃ w, e = .resetDuring w) : step s = .next (s.take rest).afterReset := by
  rcases he with rfl | ⟨w, rfl⟩ <;> rw [step, hin]

/-! ## Error answers (60_exceptions.md R296) -/

/-- A command whose answer is an error raised it. -/
theorem eq_raise_of_rsp_error {i : Instr} {s t : State} {e : ErrorKind} {d : Word} (h : exec i s = .next t)
    (hrsp : t.rsp = some ⟨.error e, d⟩) : d = 0 ∧ t = s.raise e := by
  rcases exec_cases h with ⟨e', -, rfl⟩ | ⟨u, d', -, rfl⟩
  · cases hrsp
    exact ⟨rfl, rfl⟩
  · cases hrsp

/-- A command ended with the error code `e` in its answer. -/
def AnswersError (o : Host.Outcome State Fault Refusal) (e : ErrorKind) : Prop :=
  ∃ t d, o = .next t ∧ t.rsp = some ⟨.error e, d⟩

section AnswersError
variable {s : State} {e e' : ErrorKind}

theorem not_answersError_respond (u : State) (d : Word) : ¬AnswersError (.next (u.respond d)) e := by
  rintro ⟨t, d', ht, hrsp⟩
  cases ht
  cases hrsp

theorem eq_of_answersError_raise (h : AnswersError (.next (s.raise e')) e) : e = e' := by
  obtain ⟨t, d, ht, hrsp⟩ := h
  cases ht
  cases hrsp
  rfl

/-- Where a command raises `e'` if `P` holds and otherwise answers `OK`, an error answer says that `P` holds. -/
theorem AnswersError.of_test {o : Host.Outcome State Fault Refusal} {P : Prop} (h : AnswersError o e)
    (hraise : P → o = .next (s.raise e')) (hok : ¬P → ∃ u d, o = .next (State.respond u d)) : P ∧ e = e' := by
  by_cases hP : P
  · rw [hraise hP] at h
    exact ⟨hP, eq_of_answersError_raise h⟩
  · obtain ⟨u, d, ho⟩ := hok hP
    rw [ho] at h
    exact absurd h (not_answersError_respond u d)

/-! ## Commands with one test (60_exceptions.md R291, R292, R295) -/

theorem readByte_answersError {sp : Space} {a : Nat} (h : AnswersError (readByte sp a s) e) :
    spaceSize s.cfg sp ≤ a ∧ e = .illegalCommand :=
  h.of_test readByte_of_ge fun ha => ⟨_, _, readByte_of_lt (Nat.lt_of_not_le ha)⟩

theorem writeByte_answersError {sp : Space} {a : Nat} {v : Byte} (h : AnswersError (writeByte sp a v s) e) :
    spaceSize s.cfg sp ≤ a ∧ e = .illegalCommand :=
  h.of_test writeByte_of_ge fun ha => ⟨_, _, writeByte_of_lt (Nat.lt_of_not_le ha)⟩

theorem genmat_answersError {d : BitVec 2} {n k : Nat} (h : AnswersError (exec (.genmat d n k) s) e) :
    n < k ∧ e = .invalidParameters :=
  h.of_test (exec_genmat_of_lt · d s) fun hkn => ⟨_, _, exec_genmat_of_le (Nat.le_of_not_lt hkn) d s⟩

theorem matinv_answersError {d src : BitVec 2} {m : Nat} (h : AnswersError (exec (.matinv d src m) s) e) :
    matInv s.tables m (bankMatrix s src m) = none ∧ e = .singularMatrix :=
  h.of_test exec_matinv_of_none fun hne =>
    let ⟨_, hC⟩ := Option.ne_none_iff_exists'.mp hne
    ⟨_, _, exec_matinv_of_some hC⟩

theorem RegName.exists_number_eq {b : BitVec 8} (h : b.toNat ≤ 5) : ∃ x : RegName, x.number = b := by
  have hfound : ∀ b : BitVec 8, b.toNat ≤ 5 → (RegName.ofNumber b).isSome = true := by decide
  obtain ⟨x, hx⟩ := Option.isSome_iff_exists.mp (hfound b h)
  exact ⟨x, RegName.ofNumber_eq_some.mp hx⟩

theorem RegName.hostWritable_of_number_le {x : RegName} : x.number.toNat ≤ 3 → x.hostWritable = true := by
  cases x <;> decide

theorem rdreg_answersError {reg : BitVec 8} (h : AnswersError (exec (.rdreg reg) s) e) :
    5 < reg.toNat ∧ e = .illegalCommand := by
  refine h.of_test (exec_rdreg_of_gt s) fun hle => ?_
  obtain ⟨x, rfl⟩ := RegName.exists_number_eq (Nat.le_of_not_lt hle)
  exact ⟨_, _, exec_rdreg_number s x⟩

theorem wrreg_answersError {reg : BitVec 8} {v : Word} (h : AnswersError (exec (.wrreg reg v) s) e) :
    3 < reg.toNat ∧ e = .illegalCommand := by
  refine h.of_test (exec_wrreg_of_gt s · v) fun hle => ?_
  obtain ⟨x, rfl⟩ := RegName.exists_number_eq (by omega : reg.toNat ≤ 5)
  exact ⟨_, _, exec_wrreg_number s (RegName.hostWritable_of_number_le (Nat.le_of_not_lt hle)) v⟩

/-! ## ENCODE and DECODE (60_exceptions.md R292, R293, R294) -/

/-- What the descriptor tests find, in terms of the shard size as a least quotient. -/
theorem descriptorError_eq_some (h : s.descriptorError = some e) :
    (e = .invalidParameters ∧ (s.k.toNat < 1 ∨ s.k.toNat + s.r.toNat > 256)) ∨
    (e = .capacityExceeded ∧
      (s.size.toNat > s.cfg.payMax.toNat ∨ ∀ S, isCeil s.size.toNat s.k.toNat S → S > s.cfg.shardMax.toNat)) := by
  by_cases hbad : s.badParameters = true
  · rw [State.descriptorError_of_badParameters hbad] at h
    cases h
    exact .inl ⟨rfl, State.badParameters_iff.mp hbad⟩
  by_cases hover : s.overCapacity = true
  · rw [State.descriptorError_of_overCapacity hbad hover] at h
    cases h
    have hk : 1 ≤ s.k.toNat := Nat.le_of_not_lt fun hk => hbad (State.badParameters_iff.mpr (.inl hk))
    refine .inr ⟨rfl, (State.overCapacity_iff.mp hover).imp_right fun hshard S hS => ?_⟩
    rwa [State.shardSize, ceilDiv_eq_of_isCeil hk hS] at hshard
  · rw [State.descriptorError, if_neg hbad, if_neg hover] at h
    cases h

theorem encode_answersError (h : AnswersError (exec .encode s) e) : s.descriptorError = some e := by
  cases hd : s.descriptorError with
  | none =>
    rw [exec_encode_of_none hd] at h
    exact absurd h (not_answersError_respond _ _)
  | some e' =>
    rw [exec_encode_of_error hd] at h
    rw [eq_of_answersError_raise h]

theorem decode_answersError (h : AnswersError (exec .decode s) e) : decodeMatrix s = .error e := by
  cases hM : decodeMatrix s with
  | ok V =>
    rw [exec_decode_of_ok hM] at h
    exact absurd h (not_answersError_respond _ _)
  | error e' =>
    rw [exec_decode_of_error hM] at h
    rw [eq_of_answersError_raise h]

/-- The test of DECODE that fails, by the error that it gives. -/
theorem decodeMatrix_eq_error (h : decodeMatrix s = .error e) :
    s.descriptorError = some e ∨
    (e = .insufficientFragments ∧ (aliveSlots s).length < s.k.toNat) ∨
    (e = .invalidParameters ∧ s.k.toNat ≤ (aliveSlots s).length ∧ s.n ≤ selectedId s (s.k.toNat - 1)) ∨
    (e = .singularMatrix ∧ matInv s.tables s.k.toNat (submatrix s) = none) := by
  rw [decodeMatrix] at h
  split at h
  next e' hd =>
    cases h
    exact .inl hd
  · split at h
    next hfew =>
      cases h
      exact .inr (.inl ⟨rfl, hfew⟩)
    next hk =>
      split at h
      next hid =>
        cases h
        exact .inr (.inr (.inl ⟨rfl, Nat.le_of_not_lt hk, hid⟩))
      · cases hinv : matInv s.tables s.k.toNat (submatrix s) with
        | some V => rw [hinv] at h; cases h
        | none => rw [hinv] at h; cases h; exact .inr (.inr (.inr ⟨rfl, rfl⟩))

/-- Where the last selected id is out of range, fewer than `K` alive ids are in range. -/
theorem aliveBelow_n_lt_of_id_out_of_range (hpos : 1 ≤ s.k.toNat) (hk : s.k.toNat ≤ (aliveSlots s).length)
    (hid : s.n ≤ selectedId s (s.k.toNat - 1)) : s.aliveBelow s.n < s.k.toNat := by
  have hcount := mt (selectedId_lt_iff hk (by omega) s.n).mpr (Nat.not_lt_of_le hid)
  omega

theorem not_exists_leftInverse_of_matInv_eq_none {m : Nat} {M : Matrix}
    (h : matInv (Tables.build Config.gen) m M = none) : ¬∃ V, productIsIdentity (Tables.build Config.gen) m V M := by
  rintro ⟨V, hV⟩
  obtain ⟨C, hC, -⟩ := exists_matInv_of_leftInverse hV
  rw [h] at hC
  cases hC

theorem errorCondition_decode (h : decodeMatrix s = .error e) : errorCondition s .decode e := by
  rcases decodeMatrix_eq_error h with hd | ⟨rfl, hfew⟩ | ⟨rfl, hk, hid⟩ | ⟨rfl, hinv⟩
  · rcases descriptorError_eq_some hd with ⟨rfl, hbad⟩ | ⟨rfl, hover⟩
    · exact hbad.imp_right .inl
    · exact hover
  · exact aliveBelow_256.trans_lt hfew
  · refine (Nat.lt_or_ge s.k.toNat 1).imp_right fun hpos => .inr ?_
    exact aliveBelow_n_lt_of_id_out_of_range hpos hk hid
  · intro htab
    rw [htab] at hinv ⊢
    exact not_exists_leftInverse_of_matInv_eq_none hinv

theorem errorCondition_encode (h : s.descriptorError = some e) : errorCondition s .encode e := by
  rcases descriptorError_eq_some h with ⟨rfl, hbad⟩ | ⟨rfl, hover⟩
  · exact hbad
  · exact hover

/-! ## Every command (60_exceptions.md R291) -/

/-- A command answers an error only under the condition of the table of codes. -/
theorem errorCondition_of_answersError {i : Instr} (h : AnswersError (exec i s) e) : errorCondition s i e := by
  cases i with
  | genmat d n k => obtain ⟨hkn, rfl⟩ := genmat_answersError h; exact hkn
  | matinv d src m =>
    obtain ⟨hinv, rfl⟩ := matinv_answersError h
    intro htab
    rw [htab] at hinv ⊢
    exact matInv_eq_none_iff_not_exists.mp hinv
  | encode => exact errorCondition_encode (encode_answersError h)
  | decode => exact errorCondition_decode (decode_answersError h)
  | rdreg reg => obtain ⟨hreg, rfl⟩ := rdreg_answersError h; exact hreg
  | wrreg reg v => obtain ⟨hreg, rfl⟩ := wrreg_answersError h; exact hreg
  | rdpay a => obtain ⟨ha, rfl⟩ := readByte_answersError h; exact ha
  | wrpay a v => obtain ⟨ha, rfl⟩ := writeByte_answersError h; exact ha
  | rdfrag x off => obtain ⟨ha, rfl⟩ := readByte_answersError h; exact ha
  | wrfrag x off v => obtain ⟨ha, rfl⟩ := writeByte_answersError h; exact ha
  | rdmat b off => exact absurd off.isLt (Nat.not_lt_of_le (readByte_answersError h).1)
  | wrmat b off v => exact absurd off.isLt (Nat.not_lt_of_le (writeByte_answersError h).1)
  | gfmul | gfdiv | matmul | scrseed | scrbyte | wrslot | rdslot | alive =>
    exact absurd h (not_answersError_respond _ _)

end AnswersError

end Sys2Proof.Machine

namespace Sys2Proof.Proofs

open Sys2Proof.Machine

/-- Settles O14: a command that answers an error ends as `State.raise` says. -/
theorem errorChangesNoState : Obligations.ErrorChangesNoState := fun _ _ _ _ _ => eq_raise_of_rsp_error

/-- Settles O15, command by command: its tests and what each of them raises. -/
theorem errorsOnlyUnderTheirConditions : Obligations.ErrorsOnlyUnderTheirConditions :=
  fun _ _ t _ d h hrsp => errorCondition_of_answersError ⟨t, d, h, hrsp⟩

/-- Settles O13: without a host event a step is idle. -/
theorem idleBlockHoldsState : Obligations.IdleBlockHoldsState := fun _ => step_idle

/-- Settles O12, by the laws of `State.afterReset`, which both reset events end in. -/
theorem resetEventGivesResetState : Obligations.ResetEventGivesResetState := fun _ _ _ hin he =>
  ⟨_, step_reset hin he, rfl, State.afterReset_reg _, State.afterReset_slot _, State.afterReset_stored _, rfl, rfl, rfl⟩

end Sys2Proof.Proofs
end
